-- ==== Sys2Proof/Word.lean ====
section
/-! DEFINITION. The word types of the TFD: frame bytes, command words and result registers
(spec/00_scope.md, "Widths that are not parameters"). -/

namespace Sys2Proof

/-- One byte of the frame, or one 8-bit character code (10_state.md R10, 30_encoding.md R52). -/
abbrev Byte := BitVec 8

/-- One command word (30_encoding.md R50). -/
abbrev CmdWord := BitVec 32

/-- One result register (10_state.md R14). -/
abbrev Word64 := BitVec 64

end Sys2Proof
end

