-- ==== Sys2Proof/Machine/State.lean ====
section
/-! DEFINITION. The architectural state of the TFD (spec/10_state.md R10 to R16), its response strobe (00_scope.md
R5), the host's pending events, the status codes, and the state after reset (R20). -/

namespace Sys2Proof.Machine

/-- The contents of an address space: (address, byte) pairs, an unlisted address reading as 0, the reset value of
every frame byte (10_state.md R20). -/
abbrev Memory := List Host.Cell

/-- The status codes of 60_exceptions.md R200. -/
inductive Status where
  | ok
  | illegalCommand
  | notConstructed
  | constructionEmpty
  | constructionLength
  | frameLocked
  | rangeError
  | decodeError
  deriving DecidableEq, Repr

/-- The four result registers `R[0..3]` (10_state.md R14). -/
structure Results where
  r0 : Word64
  r1 : Word64
  r2 : Word64
  r3 : Word64
  deriving DecidableEq, Repr

/-- What the host does at the ports between two responses (00_scope.md R5, R7; 70_reset_and_hazards.md R230). -/
inductive PortEvent where
  /-- A word is presented on `cmd_word` with `cmd_valid`. -/
  | command (w : CmdWord)
  /-- `rst` is asserted while no command is in progress. -/
  | reset
  /-- A word is accepted and `rst` is asserted before the command has finished. -/
  | resetDuring (w : CmdWord)
  deriving DecidableEq, Repr

/-- The state of the TFD. `inbox` is the model's own field: the events the host presents, in order. -/
structure State where
  /-- `FRAME[0..69]` (R10). -/
  frame : Memory
  /-- `BAD[0..69]`, flag `a` in bit `a` (R11). -/
  bad : BitVec 70
  /-- `CNT` (R12). -/
  cnt : BitVec 8
  /-- `VALID` (R13). -/
  valid : Bool
  /-- `R[0..3]` (R14). -/
  r : Results
  /-- `ERR` (R15). -/
  err : BitVec 4
  /-- `EFLAGS` (R16). -/
  eflags : BitVec 8
  /-- `rsp_valid` (R5): a command finished in the last step. -/
  rspValid : Bool
  /-- The host's pending events, the next one first. -/
  inbox : List PortEvent
  deriving DecidableEq, Repr

/-- The state after reset: every piece of state is 0 (10_state.md R20, 70_reset_and_hazards.md R230), and no event
is pending. -/
def State.reset : State where
  frame := []
  bad := 0
  cnt := 0
  valid := false
  r := ⟨0, 0, 0, 0⟩
  err := 0
  eflags := 0
  rspValid := false
  inbox := []

/-- The faults that stop the machine. There is none: "Nothing in the TFD has the treatment `stuck`"
(93_implementation_defined.md section 2). The spec's own faults are status codes, after which the machine goes on
(60_exceptions.md R201). -/
inductive Fault where
  deriving DecidableEq, Repr

/-- The refusals of the model. -/
inductive Refusal where
  /-- Raised by `exec` alone, for an instruction that has no meaning yet, and safe: the model stops and claims
  nothing. Every instruction of the table has its meaning, so no arm raises it. -/
  | notModelled (mnemonic : String)
  deriving DecidableEq, Repr

end Sys2Proof.Machine
end

