-- ==== Sys2Proof/Machine/Flags.lean ====
section
/-! DEFINITION. The status codes as numbers and the flag computations over `ERR`, `EFLAGS` and `BAD`
(spec/10_state.md R11, R15, R16, R19; 60_exceptions.md R200). The TFD has no flags set by arithmetic (R17). -/

namespace Sys2Proof.Machine

/-- The number of a status code (60_exceptions.md R200). -/
def statusNumber (st : Status) : Nat :=
  match st with
  | .ok => 0
  | .illegalCommand => 1
  | .notConstructed => 2
  | .constructionEmpty => 3
  | .constructionLength => 4
  | .frameLocked => 5
  | .rangeError => 6
  | .decodeError => 7

/-- The value of `ERR` for a status code (10_state.md R15). -/
def errCode (st : Status) : BitVec 4 :=
  BitVec.ofNat 4 (statusNumber st)

/-- `EFLAGS[k] <- 1` for the status code `k` (10_state.md R16, 60_exceptions.md R201). -/
def setSticky (eflags : BitVec 8) (st : Status) : BitVec 8 :=
  eflags ||| BitVec.twoPow 8 (statusNumber st)

/-- `BAD[a] <- 1` (10_state.md R11). -/
def markBad (bad : BitVec 70) (a : Nat) : BitVec 70 :=
  bad ||| BitVec.twoPow 70 a

/-- The least marked byte among `a, ..., a + n - 1`, if any (20_memory.md R31). -/
def firstBad (bad : BitVec 70) (a n : Nat) : Option Nat :=
  (List.range' a n).find? fun k => bad.getLsbD k

/-- `FIRSTBAD`: the lowest `a` with `BAD[a] = 1`, or 70 (10_state.md R19). -/
def firstBadView (bad : BitVec 70) : Nat :=
  (firstBad bad 0 70).getD 70

end Sys2Proof.Machine
end

