-- ==== Sys2Proof/Syntax.lean ====
section
/-! DEFINITION. The commands of the TFD, one constructor per row of spec/opcode_table.json
(30_encoding.md R57, R60). Operands are the unsigned numbers their bits spell (R56). -/

namespace Sys2Proof

/-- The byte order of a multi-byte read, the `REV` bit (20_memory.md R34, 30_encoding.md R53, R62). -/
inductive ByteOrder where
  /-- String order, first byte most significant (`REV = 0`). -/
  | be
  /-- Reversed order, first byte least significant (`REV = 1`). -/
  | le
  deriving DecidableEq, Repr

/-- The direction in which bit positions are counted, the `DIR` bit (20_memory.md R36, 30_encoding.md R54). -/
inductive BitDir where
  /-- Position 0 is the least-significant bit (`DIR = 0`). -/
  | lsb
  /-- Position 0 is the most-significant bit (`DIR = 1`). -/
  | msb
  deriving DecidableEq, Repr

/-- The 60 commands. Counts, offsets, positions and widths are numbers; `Instr.wellFormed` says which
values the encoding can spell. -/
inductive Instr where
  /-- Discard the frame and start a new one (40_frame_control.md R71). -/
  | clr
  /-- Append one character of the frame's text (R72). -/
  | push (ch : Byte)
  /-- End of input, run the construction check (R73). -/
  | commit
  /-- Read the control state (R74). -/
  | stat
  /-- Read a byte range in string order (41_accessor.md R91). -/
  | getb (off cnt : Nat)
  /-- Read a byte range in reversed order (R92). -/
  | getr (off cnt : Nat)
  /-- Extract one bit group from a byte range (R93). -/
  | bfx (off cnt4 : Nat) (rev : ByteOrder) (dir : BitDir) (pos wid : Nat)
  /-- Complement a byte range (R94). -/
  | invb (off cnt : Nat) (rev : ByteOrder)
  /-- Checksum of a byte range (42_checksum.md R103). -/
  | csum (off cnt : Nat)
  /-- Embedded and computed checksum of the frame (R104). -/
  | edc
  /-- Decimal degrees of the longitude (43_coordinate.md R118). -/
  | londd
  /-- Decimal degrees of the latitude (R119). -/
  | latdd
  /-- Degrees, minutes, seconds of the longitude (R124). -/
  | londms
  /-- Degrees, minutes, seconds of the latitude (R125). -/
  | latdms
  /-- `FLD SYSC`: system code (R131). -/
  | fldSysc
  /-- `FLD MTYP`: message type (R132). -/
  | fldMtyp
  /-- `FLD UID`: units id (R133). -/
  | fldUid
  /-- `FLD CCF`: communication control field (R134). -/
  | fldCcf
  /-- `FLD MNUM`: message numerator (R135). -/
  | fldMnum
  /-- `FLD HWV`: hardware version byte (R136). -/
  | fldHwv
  /-- `FLD HWMODEL`: model id, low 5 bits (R137). -/
  | fldHwmodel
  /-- `FLD HWMODEM`: modem code, high 3 bits (R138). -/
  | fldHwmodem
  /-- `FLD SWV`: software version (R139). -/
  | fldSwv
  /-- `FLD PRV`: protocol version (R140). -/
  | fldPrv
  /-- `FLD USGO`: unit status and GSM operator byte (R141). -/
  | fldUsgo
  /-- `FLD CGSM`: current GSM operator byte (R142). -/
  | fldCgsm
  /-- `FLD TRSD`: transmission-reason-specific data (R143). -/
  | fldTrsd
  /-- `FLD TRSN`: transmission reason (R144). -/
  | fldTrsn
  /-- `FLD MODE`: mode of operation (R145). -/
  | fldMode
  /-- `FLD IO1`: I/O status byte 1 (R146). -/
  | fldIo1
  /-- `FLD IO2`: I/O status byte 2 (R147). -/
  | fldIo2
  /-- `FLD IO3`: I/O status byte 3 (R148). -/
  | fldIo3
  /-- `FLD IO4`: I/O status byte 4 (R149). -/
  | fldIo4
  /-- `FLD IO5`: fifth byte of the I/O status range (R150). -/
  | fldIo5
  /-- `FLD AN1`: analog input 1 (R151). -/
  | fldAn1
  /-- `FLD AN2`: analog input 2 (R152). -/
  | fldAn2
  /-- `FLD AN3`: analog input 3 (R153). -/
  | fldAn3
  /-- `FLD AN4`: analog input 4 (R154). -/
  | fldAn4
  /-- `FLD MILE`: mileage counter (R161). -/
  | fldMile
  /-- `FLD MPF`: multi-purpose field (R162). -/
  | fldMpf
  /-- `FLD LGF`: last GPS fix, raw 16 bits (R163). -/
  | fldLgf
  /-- `FLD LGFD`: last GPS fix, day (R164). -/
  | fldLgfd
  /-- `FLD LGFH`: last GPS fix, hour (R165). -/
  | fldLgfh
  /-- `FLD LGFM`: last GPS fix, minute (R166). -/
  | fldLgfm
  /-- `FLD LOCS`: location status (R167). -/
  | fldLocs
  /-- `FLD MOD1`: mode 1 (R168). -/
  | fldMod1
  /-- `FLD MOD2`: mode 2 (R169). -/
  | fldMod2
  /-- `FLD SATS`: satellites used (R170). -/
  | fldSats
  /-- `FLD LONR`: longitude raw (R171). -/
  | fldLonr
  /-- `FLD LATR`: latitude raw (R172). -/
  | fldLatr
  /-- `FLD ALT`: altitude (R173). -/
  | fldAlt
  /-- `FLD GSPD`: ground speed (R174). -/
  | fldGspd
  /-- `FLD SDIR`: speed direction (R175). -/
  | fldSdir
  /-- `FLD USEC`: UTC seconds (R176). -/
  | fldUsec
  /-- `FLD UMIN`: UTC minutes (R177). -/
  | fldUmin
  /-- `FLD UHR`: UTC hours (R178). -/
  | fldUhr
  /-- `FLD UDAY`: UTC day (R179). -/
  | fldUday
  /-- `FLD UMON`: UTC month (R180). -/
  | fldUmon
  /-- `FLD UYEAR`: UTC year (R181). -/
  | fldUyear
  /-- `FLD CKB`: embedded checksum byte (R182). -/
  | fldCkb
  deriving DecidableEq, Repr

end Sys2Proof
end

