-- ==== Sys2Proof/Config.lean ====
section
/-! DEFINITION. The parameters of an instance (00_scope.md R4, 93_implementation_defined.md section 1). Every
meaning that uses a parameter takes the whole record as an argument; `Config.params` is the machine's own record. In
it the DECIDED parameters stand at the spec's value, and the OPEN ones are opaque: nothing can be proved of them but
what the spec fixes, which holds by construction. -/

namespace Sys2Proof

/-- A rational `num / den` with a positive denominator (00_scope.md R9). -/
structure Ratio where
  num : Int
  den : Nat
  den_pos : 0 < den
  deriving DecidableEq, Repr

/-- A positive rational `num / den` (00_scope.md R4). -/
structure PosRatio where
  num : Nat
  den : Nat
  num_pos : 0 < num
  den_pos : 0 < den
  deriving DecidableEq, Repr

/-- A positive rational is a rational. -/
def PosRatio.toRatio (q : PosRatio) : Ratio := ⟨q.num, q.den, q.den_pos⟩

/-- The rational 0. -/
def Ratio.zero : Ratio := ⟨0, 1, by decide⟩

/-- The two readings of the checksum range (42_checksum.md R102, decision D17). -/
inductive CkFirst where
  /-- `CK_FIRST = 4`, the message type: the spec's decision. -/
  | byte4
  /-- `CK_FIRST = 3`, the other reading of the source. -/
  | byte3
  deriving DecidableEq, Repr

/-- The parameter `CK_FIRST` as a byte offset. -/
def CkFirst.offset : CkFirst → Nat
  | .byte4 => 4
  | .byte3 => 3

/-- The number the DMS form decomposes (43_coordinate.md R120, decision D21). -/
inductive DmsInput where
  /-- `UNSIGNED_RAW`, the default. -/
  | unsignedRaw
  /-- `SIGNED_RAW`, the named alternative. -/
  | signedRaw
  deriving DecidableEq, Repr

/-- `AN_SCALE[i]`, `AN_OFFSET[i]`, `AN_FRAC[i]` of one analog input (44_fields_header.md R155). -/
structure Analog where
  scale : Ratio
  offset : Ratio
  frac : Nat
  deriving DecidableEq, Repr

/-- One entry of `FIELD_MAP`: a named flag or bit group and its `BFX` operands (41_accessor.md R96). -/
structure FieldMapEntry where
  name : String
  off : Nat
  cnt : Nat
  rev : ByteOrder
  dir : BitDir
  pos : Nat
  wid : Nat
  deriving DecidableEq, Repr

/-- "legal for `BFX`" (93_implementation_defined.md section 1): the entry spells a `BFX` that raises no `RangeError`
(41_accessor.md R93). -/
def FieldMapEntry.legal (e : FieldMapEntry) : Bool :=
  decide (1 ≤ e.cnt ∧ e.cnt ≤ 8 ∧ e.off + e.cnt ≤ 70 ∧ 1 ≤ e.wid ∧ e.wid < 64 ∧ e.pos + e.wid ≤ 8 * e.cnt)

/-- The parameters of R4 that a rule of the block reads. `FRAME_BYTES`, `FRAME_CHARS`, `CK_LAST` and `SPD_FRAC` are
FIXED and stand as numbers where they are used; `LATENCY` is read by no rule (R236). -/
structure Params where
  /-- `K_DEG = KNUM / KDEN`. -/
  kDeg : PosRatio
  /-- `CK_FIRST`. -/
  ckFirst : CkFirst
  /-- `DD_FRAC`. -/
  ddFrac : Nat
  /-- `DMS_INPUT`. -/
  dmsInput : DmsInput
  an1 : Analog
  an2 : Analog
  an3 : Analog
  an4 : Analog
  altScale : PosRatio
  altFrac : Nat
  spdScale : PosRatio
  dirScale : PosRatio
  dirFrac : Nat
  /-- `FIELD_MAP`. -/
  fieldMap : List FieldMapEntry
  deriving DecidableEq, Repr

/-- The four analog inputs in order. -/
def Params.analogs (p : Params) : List Analog := [p.an1, p.an2, p.an3, p.an4]

/-- A configuration the spec does not refuse (93_implementation_defined.md section 1): exactly one `AN_OFFSET[i]` is
nonzero, and every `FIELD_MAP` entry is legal for `BFX`. -/
def Params.legal (p : Params) : Bool :=
  decide ((p.analogs.filter fun a => decide (a.offset.num ≠ 0)).length = 1) && p.fieldMap.all FieldMapEntry.legal

/-- OPEN D19: `KNUM - 1`. -/
opaque Config.kNumPred : Nat
/-- OPEN D19: `KDEN - 1`. -/
opaque Config.kDenPred : Nat
/-- OPEN D24: numerators of `AN_SCALE[1..4]`. -/
opaque Config.anScaleNum : Fin 4 → Int
/-- OPEN D24: denominators of `AN_SCALE[1..4]`, less one. -/
opaque Config.anScaleDenPred : Fin 4 → Nat
/-- OPEN D24: `AN_FRAC[1..4]`. -/
opaque Config.anFrac : Fin 4 → Nat
/-- OPEN D24: which analog input is the affine one. -/
opaque Config.affineInput : Fin 4
/-- OPEN D24: whether the one nonzero `AN_OFFSET` is negative. -/
opaque Config.affineNegative : Bool
/-- OPEN D24: the magnitude of its numerator, less one. -/
opaque Config.affineNumPred : Nat
/-- OPEN D24: its denominator, less one. -/
opaque Config.affineDenPred : Nat
/-- OPEN D24: numerator of `ALT_SCALE`, less one. -/
opaque Config.altNumPred : Nat
/-- OPEN D24: denominator of `ALT_SCALE`, less one. -/
opaque Config.altDenPred : Nat
/-- OPEN D24: `ALT_FRAC`. -/
opaque Config.altFrac : Nat
/-- OPEN D24: numerator of `SPD_SCALE`, less one. -/
opaque Config.spdNumPred : Nat
/-- OPEN D24: denominator of `SPD_SCALE`, less one. -/
opaque Config.spdDenPred : Nat
/-- OPEN D24: numerator of `DIR_SCALE`, less one. -/
opaque Config.dirNumPred : Nat
/-- OPEN D24: denominator of `DIR_SCALE`, less one. -/
opaque Config.dirDenPred : Nat
/-- OPEN D24: `DIR_FRAC`. -/
opaque Config.dirFrac : Nat
/-- OPEN D34: the list from which `FIELD_MAP` takes its legal entries. -/
opaque Config.fieldEntries : List FieldMapEntry

/-- The positive rational `(n + 1) / (d + 1)`: every positive rational is one of these. -/
def PosRatio.ofPred (n d : Nat) : PosRatio := ⟨n + 1, d + 1, Nat.succ_pos n, Nat.succ_pos d⟩

/-- The one nonzero `AN_OFFSET` (44_fields_header.md R155: "exactly one ... is nonzero"). -/
def Config.affineOffset : Ratio :=
  ⟨if Config.affineNegative then -((Config.affineNumPred : Int) + 1) else (Config.affineNumPred : Int) + 1,
    Config.affineDenPred + 1, Nat.succ_pos _⟩

/-- The analog parameters of input `i` (R155). -/
def Config.analog (i : Fin 4) : Analog where
  scale := ⟨Config.anScaleNum i, Config.anScaleDenPred i + 1, Nat.succ_pos _⟩
  offset := if i = Config.affineInput then Config.affineOffset else Ratio.zero
  frac := Config.anFrac i

/-- The parameters of the machine: DECIDED ones at the spec's value (D17, D20, D21), OPEN ones opaque. -/
def Config.params : Params where
  kDeg := PosRatio.ofPred Config.kNumPred Config.kDenPred
  ckFirst := .byte4
  ddFrac := 9
  dmsInput := .unsignedRaw
  an1 := Config.analog 0
  an2 := Config.analog 1
  an3 := Config.analog 2
  an4 := Config.analog 3
  altScale := PosRatio.ofPred Config.altNumPred Config.altDenPred
  altFrac := Config.altFrac
  spdScale := PosRatio.ofPred Config.spdNumPred Config.spdDenPred
  dirScale := PosRatio.ofPred Config.dirNumPred Config.dirDenPred
  dirFrac := Config.dirFrac
  fieldMap := Config.fieldEntries.filter FieldMapEntry.legal

end Sys2Proof
end

