-- ==== Sys2Proof/Machine/Operands.lean ====
section
/-! DEFINITION. The operand forms and the arithmetic of the TFD: hexadecimal digits, byte orders, bit groups,
complement, checksum, rounding and scaling. All arithmetic is exact, on naturals and integers, and narrows once. -/

namespace Sys2Proof.Machine

/-- The value of a character code as a hexadecimal digit (20_memory.md R33; the codes are its general-knowledge
passage G1, PRESUMED, log 22). -/
def hexDigit (ch : Byte) : Option Nat :=
  let c := ch.toNat
  if 0x30 ≤ c ∧ c ≤ 0x39 then some (c - 0x30)
  else if 0x41 ≤ c ∧ c ≤ 0x46 then some (c - 0x41 + 10)
  else if 0x61 ≤ c ∧ c ≤ 0x66 then some (c - 0x61 + 10)
  else none

/-- Digits in string order, most significant first, read in base `b`. -/
def digitsValue (b : Nat) (ds : List Nat) : Nat :=
  ds.foldl (fun acc d => acc * b + d) 0

/-- `be(bs)` (20_memory.md R34): the first byte is the most significant. -/
def be (bs : List Byte) : Nat :=
  digitsValue 256 (bs.map BitVec.toNat)

/-- `le(bs)` (R34): the first byte is the least significant. -/
def le (bs : List Byte) : Nat :=
  match bs with
  | [] => 0
  | b :: rest => b.toNat + 256 * le rest

/-- The value of a byte sequence in a byte order (R34). -/
def orderValue (o : ByteOrder) (bs : List Byte) : Nat :=
  match o with
  | .be => be bs
  | .le => le bs

/-- `v[hi:lo]` as an unsigned number (00_scope.md, notation). -/
def bitSlice (v hi lo : Nat) : Nat :=
  v / 2 ^ lo % 2 ^ (hi + 1 - lo)

/-- The lowest bit of a bit group of `wid` bits at position `pos` of a `w`-bit field (41_accessor.md R90). -/
def groupLow (w : Nat) (dir : BitDir) (pos wid : Nat) : Nat :=
  match dir with
  | .lsb => pos
  | .msb => w - pos - wid

/-- `bitfield(v, W, dir, pos, wid)` (R90), for `1 <= wid` and `pos + wid <= W`. -/
def bitfield (v w : Nat) (dir : BitDir) (pos wid : Nat) : Nat :=
  v / 2 ^ groupLow w dir pos wid % 2 ^ wid

/-- Every one of the `w` bits of `v` flipped (41_accessor.md R88, R94). -/
def complementBits (w v : Nat) : Nat :=
  2 ^ w - 1 - v

/-- The unreduced sum of the bytes (42_checksum.md R103). -/
def byteSum (bs : List Byte) : Nat :=
  (bs.map BitVec.toNat).sum

/-- `checksum(bs)` (42_checksum.md R100). -/
def checksum (bs : List Byte) : Nat :=
  byteSum bs % 256

/-- `rnd_div(n, d)`: the integer nearest to `n / d`, ties away from zero (00_scope.md R8). -/
def rndDiv (n : Int) (d : Nat) : Int :=
  n.sign * (((2 * n.natAbs + d) / (2 * d) : Nat) : Int)

/-- `scale_fx(raw, S, O, F)` (00_scope.md R9). -/
def scaleFx (raw : Nat) (scale offset : Ratio) (frac : Nat) : Int :=
  rndDiv ((raw * scale.num * offset.den + offset.num * scale.den) * 10 ^ frac) (scale.den * offset.den)

/-- A number written to a 64-bit register (00_scope.md, notation: `s mod 2^64`). -/
def regOfInt (v : Int) : Word64 :=
  BitVec.ofInt 64 v

/-- A natural written to a 64-bit register. -/
def regOfNat (v : Nat) : Word64 :=
  BitVec.ofNat 64 v

end Sys2Proof.Machine
end

