-- ==== Sys2Proof/Machine/Ops.lean ====
section
/-! DEFINITION. The named operations over memory and registers: the frame buffer (20_memory.md R30 to R32), finishing
a command (40_frame_control.md R70 (c)), raising a status code (60_exceptions.md R201), and the shapes shared by the
accessor commands. There is no return from an exception: the next command is accepted in the normal way (R213). -/

namespace Sys2Proof.Machine

/-- One byte of memory; an unlisted address reads as 0 (10_state.md R20). -/
def Memory.read (m : Memory) (a : Nat) : Byte :=
  match m with
  | [] => 0
  | (k, v) :: rest => if a = k then v else Memory.read rest a

/-- Store one byte, keeping addresses rising and no entry equal to 0. -/
def Memory.write (m : Memory) (a : Nat) (b : Byte) : Memory :=
  match m with
  | [] => if b = 0 then [] else [(a, b)]
  | (k, v) :: rest =>
    if a < k then (if b = 0 then (k, v) :: rest else (a, b) :: (k, v) :: rest)
    else if a = k then (if b = 0 then rest else (a, b) :: rest)
    else (k, v) :: Memory.write rest a b

/-- The entries from address `lo` on: addresses strictly rising, inside the 70-byte address space (R30), none equal
to what an unlisted address reads as. -/
def Memory.wfFrom (lo : Nat) (m : Memory) : Bool :=
  match m with
  | [] => true
  | (k, v) :: rest => decide (lo ≤ k) && decide (k < 70) && decide (v ≠ 0) && Memory.wfFrom (k + 1) rest

/-- The canonical form of the frame's memory. -/
def Memory.wf (m : Memory) : Bool :=
  Memory.wfFrom 0 m

/-- What `raise X(info)` carries (60_exceptions.md R201). -/
structure Raised where
  status : Status
  info : Word64
  deriving DecidableEq, Repr

/-- What the pseudocode of an accessor command ends with: the four results, or a raise. -/
abbrev Answer := Except Raised Results

/-- TAKING AN EXCEPTION: `raise X(info)` (60_exceptions.md R201). Nothing but `R`, `ERR`, `EFLAGS` changes, and the
response is sent. -/
def raise (s : State) (e : Raised) : State :=
  { s with
    r := ⟨e.info, 0, 0, 0⟩
    err := errCode e.status
    eflags := setSticky s.eflags e.status
    rspValid := true }

/-- A command that reaches the end of its pseudocode (40_frame_control.md R70 (c)): `ERR <- OK`, every `R[i]`
written, the response sent. -/
def finish (s : State) (rs : Results) : State :=
  { s with r := rs, err := errCode .ok, rspValid := true }

/-- One result in `R[0]`, 0 elsewhere (R70 (c)). -/
def result0 (v : Word64) : Results := ⟨v, 0, 0, 0⟩

/-- The end of a command: its results, or its raise. -/
def settle (s : State) (q : Answer) : Host.Outcome State Fault Refusal :=
  match q with
  | .ok rs => .next (finish s rs)
  | .error e => .next (raise s e)

/-- An accessor command: `if VALID = 0 then raise NotConstructed(0)`, then the rest of its pseudocode
(60_exceptions.md R203). -/
def accessor (s : State) (q : Answer) : Host.Outcome State Fault Refusal :=
  if s.valid then settle s q else .next (raise s ⟨.notConstructed, 0⟩)

/-- The bytes at `a, ..., a + n - 1`, on-wire order. -/
def frameBytes (s : State) (a n : Nat) : List Byte :=
  (List.range' a n).map fun k => Memory.read s.frame k

/-- `MemRead(a, n)` (20_memory.md R31). -/
def memRead (s : State) (a n : Nat) : Except Raised (List Byte) :=
  if a + n > 70 then .error ⟨.rangeError, regOfNat (a + n)⟩
  else
    match firstBad s.bad a n with
    | some k => .error ⟨.decodeError, regOfNat k⟩
    | none => .ok (frameBytes s a n)

/-- `MemRead`, then results computed from the bytes read. -/
def readThen (s : State) (a n : Nat) (f : List Byte → Results) : Answer :=
  match memRead s a n with
  | .error e => .error e
  | .ok bs => .ok (f bs)

/-- The count check of the range reads: `if CNT = 0 or CNT > 8 then raise RangeError(CNT)` (41_accessor.md R91). -/
def countChecked (cnt : Nat) (rest : Answer) : Answer :=
  if cnt = 0 ∨ cnt > 8 then .error ⟨.rangeError, regOfNat cnt⟩ else rest

/-- The number and width of a byte range (41_accessor.md R91, R92): `R[0]` and `R[1]`. -/
def rangeResults (cnt v : Nat) : Results :=
  ⟨regOfNat v, regOfNat (8 * cnt), 0, 0⟩

/-- The nibble write, the one form of `MemWrite` (20_memory.md R32): nibble `d` of the byte `FRAME[i div 2]`, the
high one when `i` is even (the low one becomes 0, 40_frame_control.md R72), the low one when `i` is odd. -/
def writeNibble (m : Memory) (i d : Nat) : Memory :=
  let a := i / 2
  if i % 2 = 0 then Memory.write m a (BitVec.ofNat 8 (d * 16))
  else Memory.write m a (BitVec.ofNat 8 (bitSlice (Memory.read m a).toNat 7 4 * 16 + d))

/-- The common rule of the `FLD` selectors (44_fields_header.md R130): read the field, then the results from its
value. -/
def fieldRead (s : State) (fo fn : Nat) (o : ByteOrder) (f : Nat → Results) :
    Host.Outcome State Fault Refusal :=
  accessor s (readThen s fo fn fun bs => f (orderValue o bs))

/-- A selector with nothing beyond the common rule (R130). -/
def fieldPlain (s : State) (fo fn : Nat) (o : ByteOrder) : Host.Outcome State Fault Refusal :=
  fieldRead s fo fn o fun v => result0 (regOfNat v)

/-- An analog input (44_fields_header.md R155). -/
def fieldAnalog (an : Analog) (s : State) (fo : Nat) : Host.Outcome State Fault Refusal :=
  fieldRead s fo 1 .be fun v =>
    ⟨regOfNat v, regOfInt (scaleFx v an.scale an.offset an.frac), regOfNat an.frac, 0⟩

/-- A scaled positional field (45_fields_position_time.md R183). -/
def fieldScaled (scale : PosRatio) (frac : Nat) (s : State) (fo fn : Nat) :
    Host.Outcome State Fault Refusal :=
  fieldRead s fo fn .le fun v =>
    ⟨regOfNat v, regOfInt (scaleFx v scale.toRatio Ratio.zero frac), regOfNat frac, 0⟩

end Sys2Proof.Machine
end

