-- ==== Sys2Proof/Machine/Accessor.lean ====
section
/-! DEFINITION. The byte and bit accessor commands GETB, GETR, BFX, INVB (spec/41_accessor.md R91 to R94). -/

namespace Sys2Proof.Machine

/-- A byte range as one number in a byte order (R91, R92). -/
def rangeRead (o : ByteOrder) (off cnt : Nat) (s : State) : Answer :=
  countChecked cnt (readThen s off cnt fun bs => rangeResults cnt (orderValue o bs))

/-- `GETB off, cnt` (R91). -/
def execGetb (off cnt : Nat) (s : State) : Host.Outcome State Fault Refusal :=
  accessor s (rangeRead .be off cnt s)

/-- `GETR off, cnt` (R92). -/
def execGetr (off cnt : Nat) (s : State) : Host.Outcome State Fault Refusal :=
  accessor s (rangeRead .le off cnt s)

/-- The bit-group check of `BFX` (R93): `if WID = 0 or POS + WID > W then raise RangeError(POS + WID)`. -/
def groupChecked (w pos wid : Nat) (rest : Answer) : Answer :=
  if wid = 0 ∨ pos + wid > w then .error ⟨.rangeError, regOfNat (pos + wid)⟩ else rest

/-- `BFX off, cnt, rev, dir, pos, wid` (R93): count, then bit group, then the range. -/
def execBfx (off cnt4 : Nat) (rev : ByteOrder) (dir : BitDir) (pos wid : Nat) (s : State) :
    Host.Outcome State Fault Refusal :=
  accessor s (countChecked cnt4 (groupChecked (8 * cnt4) pos wid
    (readThen s off cnt4 fun bs =>
      ⟨regOfNat (bitfield (orderValue rev bs) (8 * cnt4) dir pos wid), regOfNat wid, 0, 0⟩)))

/-- `INVB off, cnt, rev` (R94): the complement over the fixed width `8 * CNT`. -/
def execInvb (off cnt : Nat) (rev : ByteOrder) (s : State) : Host.Outcome State Fault Refusal :=
  accessor s (countChecked cnt
    (readThen s off cnt fun bs => rangeResults cnt (complementBits (8 * cnt) (orderValue rev bs))))

end Sys2Proof.Machine
end

