-- ==== Sys2Proof/Machine/Checksum.lean ====
section
/-! DEFINITION. The checksum engine's commands CSUM and EDC (spec/42_checksum.md R103, R104). The two values of
EDC are never compared (R105). -/

namespace Sys2Proof.Machine

/-- `CSUM off, cnt` (R103): a count of 0 is legal and sums nothing. -/
def execCsum (off cnt : Nat) (s : State) : Host.Outcome State Fault Refusal :=
  accessor s (readThen s off cnt fun bs => ⟨regOfNat (checksum bs), regOfNat (byteSum bs), 0, 0⟩)

/-- The pseudocode of `EDC` (R104) after its `VALID` test, for any `CK_FIRST`; `CK_LAST` is 68 (R102). The range is
read before byte 69. -/
def edcAnswer (p : Params) (s : State) : Answer :=
  match memRead s p.ckFirst.offset (68 - p.ckFirst.offset + 1) with
  | .error e => .error e
  | .ok bs => readThen s 69 1 fun b69 => ⟨regOfNat (be b69), regOfNat (checksum bs), 0, 0⟩

/-- `EDC` for the parameters `p` (R104). -/
def edcWith (p : Params) (s : State) : Host.Outcome State Fault Refusal :=
  accessor s (edcAnswer p s)

/-- `EDC` (R104). -/
def execEdc (s : State) : Host.Outcome State Fault Refusal :=
  edcWith Config.params s

end Sys2Proof.Machine
end

