-- ==== Sys2Proof/Machine/Coordinate.lean ====
section
/-! DEFINITION. The coordinate transformer's commands LONDD, LATDD, LONDMS, LATDMS (spec/43_coordinate.md R110 to
R126), in exact arithmetic with one rounding at the output. -/

namespace Sys2Proof.Machine

/-- The two axes (R110). -/
inductive Axis where
  | lon
  | lat
  deriving DecidableEq, Repr

/-- The first offset of an axis's raw field (R110, R117). -/
def axisOffset (ax : Axis) : Nat :=
  match ax with
  | .lon => 44
  | .lat => 48

/-- The sign test (R111): the top nibble is `F`. -/
def rawNegative (raw : Nat) : Bool :=
  decide (bitSlice raw 31 28 = 0xF)

/-- The signed integer `n` (R112). -/
def coordInt (raw : Nat) : Int :=
  if rawNegative raw then (raw : Int) - 2 ^ 32 else raw

/-- The scale exponent `e` (R113). -/
def coordExp (ax : Axis) (raw : Nat) : Nat :=
  match ax with
  | .lon => if rawNegative raw then 8 else 9
  | .lat => 8

/-- The output `DD` (R115). -/
def coordDD (p : Params) (ax : Axis) (raw : Nat) : Int :=
  rndDiv (coordInt raw * p.kDeg.num * 10 ^ p.ddFrac) (p.kDeg.den * 10 ^ coordExp ax raw)

/-- The four results of `LONDD` and `LATDD` (R117). -/
def ddResults (p : Params) (ax : Axis) (raw : Nat) : Results :=
  ⟨regOfInt (coordDD p ax raw), regOfInt (coordInt raw), regOfNat (coordExp ax raw), regOfNat raw⟩

/-- The pseudocode shared by `LONDD` and `LATDD` (R117). -/
def ddWith (p : Params) (ax : Axis) (s : State) : Host.Outcome State Fault Refusal :=
  fieldRead s (axisOffset ax) 4 .le (ddResults p ax)

/-- `LONDD` (R118). -/
def execLondd (s : State) : Host.Outcome State Fault Refusal :=
  ddWith Config.params .lon s

/-- `LATDD` (R119). -/
def execLatdd (s : State) : Host.Outcome State Fault Refusal :=
  ddWith Config.params .lat s

/-- Numerator of the rational `d` that the DMS form decomposes (R120); the denominator is `dmsDen`. -/
def dmsNum (p : Params) (raw : Nat) : Int :=
  match p.dmsInput with
  | .unsignedRaw => raw * p.kDeg.num
  | .signedRaw => coordInt raw * p.kDeg.num

/-- Denominator of the rational `d` (R120): `10^-8` on both axes. -/
def dmsDen (p : Params) : Nat :=
  p.kDeg.den * 10 ^ 8

/-- `deg` of `a = num / den` (R121). -/
def dmsDeg (num den : Nat) : Nat :=
  num / den

/-- `min` (R121): the whole part of `mfull = (a - deg) * 60`. -/
def dmsMin (num den : Nat) : Nat :=
  num % den * 60 / den

/-- `sec_c` (R121): hundredths of `sfull = (mfull - min) * 60`, rounded once, no carry. -/
def dmsSec (num den : Nat) : Int :=
  rndDiv ((num % den * 60 % den * 6000 : Nat) : Int) den

/-- The hemisphere code of `d = num / den` (R122). -/
def hemisphere (ax : Axis) (num : Int) (den : Nat) : Nat :=
  match ax with
  | .lon =>
    if 0 < num ∧ num ≤ 180 * den then 1 else if -(180 * (den : Int)) ≤ num ∧ num < 0 then 2 else 0
  | .lat =>
    if 0 < num ∧ num ≤ 90 * den then 3 else if -(90 * (den : Int)) ≤ num ∧ num < 0 then 4 else 0

/-- The four results of `LONDMS` and `LATDMS` (R123). -/
def dmsResults (p : Params) (ax : Axis) (raw : Nat) : Results :=
  let num := dmsNum p raw
  let den := dmsDen p
  ⟨regOfNat (dmsDeg num.natAbs den), regOfNat (dmsMin num.natAbs den), regOfInt (dmsSec num.natAbs den),
    regOfNat (hemisphere ax num den)⟩

/-- The pseudocode shared by `LONDMS` and `LATDMS` (R123). -/
def dmsWith (p : Params) (ax : Axis) (s : State) : Host.Outcome State Fault Refusal :=
  fieldRead s (axisOffset ax) 4 .le (dmsResults p ax)

/-- `LONDMS` (R124). -/
def execLondms (s : State) : Host.Outcome State Fault Refusal :=
  dmsWith Config.params .lon s

/-- `LATDMS` (R125). -/
def execLatdms (s : State) : Host.Outcome State Fault Refusal :=
  dmsWith Config.params .lat s

end Sys2Proof.Machine
end

