-- ==== Sys2Proof/Machine/FieldsHeader.lean ====
section
/-! DEFINITION. The FLD selectors of bytes 0 to 28 (spec/44_fields_header.md R131 to R154), over the common
rule R130 and the analog transform R155. For a single byte the two byte orders agree (20_memory.md R34). -/

namespace Sys2Proof.Machine

/-- `FLD SYSC`: system code (R131). -/
def execFldSysc (s : State) : Host.Outcome State Fault Refusal :=
  fieldPlain s 0 4 .be

/-- `FLD MTYP`: message type (R132). -/
def execFldMtyp (s : State) : Host.Outcome State Fault Refusal :=
  fieldPlain s 4 1 .be

/-- `FLD UID`: units id (R133). -/
def execFldUid (s : State) : Host.Outcome State Fault Refusal :=
  fieldPlain s 5 4 .le

/-- `FLD CCF`: communication control field (R134). -/
def execFldCcf (s : State) : Host.Outcome State Fault Refusal :=
  fieldPlain s 9 2 .be

/-- `FLD MNUM`: message numerator (R135). -/
def execFldMnum (s : State) : Host.Outcome State Fault Refusal :=
  fieldPlain s 11 1 .be

/-- `FLD HWV`: hardware version byte (R136). -/
def execFldHwv (s : State) : Host.Outcome State Fault Refusal :=
  fieldRead s 12 1 .be fun b => ⟨regOfNat b, regOfNat (bitSlice b 4 0), regOfNat (bitSlice b 7 5), 0⟩

/-- `FLD HWMODEL`: model id, low 5 bits (R137). -/
def execFldHwmodel (s : State) : Host.Outcome State Fault Refusal :=
  fieldRead s 12 1 .be fun b => result0 (regOfNat (bitSlice b 4 0))

/-- `FLD HWMODEM`: modem code, high 3 bits (R138). -/
def execFldHwmodem (s : State) : Host.Outcome State Fault Refusal :=
  fieldRead s 12 1 .be fun b => result0 (regOfNat (bitSlice b 7 5))

/-- `FLD SWV`: software version (R139). -/
def execFldSwv (s : State) : Host.Outcome State Fault Refusal :=
  fieldPlain s 13 1 .be

/-- `FLD PRV`: protocol version (R140). -/
def execFldPrv (s : State) : Host.Outcome State Fault Refusal :=
  fieldPlain s 14 1 .be

/-- `FLD USGO`: unit status and GSM operator byte (R141). -/
def execFldUsgo (s : State) : Host.Outcome State Fault Refusal :=
  fieldPlain s 15 1 .be

/-- `FLD CGSM`: current GSM operator byte (R142). -/
def execFldCgsm (s : State) : Host.Outcome State Fault Refusal :=
  fieldPlain s 16 1 .be

/-- `FLD TRSD`: transmission-reason-specific data (R143). -/
def execFldTrsd (s : State) : Host.Outcome State Fault Refusal :=
  fieldPlain s 17 1 .be

/-- `FLD TRSN`: transmission reason (R144). -/
def execFldTrsn (s : State) : Host.Outcome State Fault Refusal :=
  fieldPlain s 18 1 .be

/-- `FLD MODE`: mode of operation (R145). -/
def execFldMode (s : State) : Host.Outcome State Fault Refusal :=
  fieldPlain s 19 1 .be

/-- `FLD IO1`: I/O status byte 1 (R146). -/
def execFldIo1 (s : State) : Host.Outcome State Fault Refusal :=
  fieldPlain s 20 1 .be

/-- `FLD IO2`: I/O status byte 2 (R147). -/
def execFldIo2 (s : State) : Host.Outcome State Fault Refusal :=
  fieldPlain s 21 1 .be

/-- `FLD IO3`: I/O status byte 3 (R148). -/
def execFldIo3 (s : State) : Host.Outcome State Fault Refusal :=
  fieldPlain s 22 1 .be

/-- `FLD IO4`: I/O status byte 4 (R149). -/
def execFldIo4 (s : State) : Host.Outcome State Fault Refusal :=
  fieldPlain s 23 1 .be

/-- `FLD IO5`: fifth byte of the I/O status range (R150). -/
def execFldIo5 (s : State) : Host.Outcome State Fault Refusal :=
  fieldPlain s 24 1 .be

/-- `FLD AN1` for the parameters `p` (R151). -/
def fldAn1With (p : Params) (s : State) : Host.Outcome State Fault Refusal :=
  fieldAnalog p.an1 s 25

/-- `FLD AN1`: analog input 1 (R151). -/
def execFldAn1 (s : State) : Host.Outcome State Fault Refusal :=
  fldAn1With Config.params s

/-- `FLD AN2` for the parameters `p` (R152). -/
def fldAn2With (p : Params) (s : State) : Host.Outcome State Fault Refusal :=
  fieldAnalog p.an2 s 26

/-- `FLD AN2`: analog input 2 (R152). -/
def execFldAn2 (s : State) : Host.Outcome State Fault Refusal :=
  fldAn2With Config.params s

/-- `FLD AN3` for the parameters `p` (R153). -/
def fldAn3With (p : Params) (s : State) : Host.Outcome State Fault Refusal :=
  fieldAnalog p.an3 s 27

/-- `FLD AN3`: analog input 3 (R153). -/
def execFldAn3 (s : State) : Host.Outcome State Fault Refusal :=
  fldAn3With Config.params s

/-- `FLD AN4` for the parameters `p` (R154). -/
def fldAn4With (p : Params) (s : State) : Host.Outcome State Fault Refusal :=
  fieldAnalog p.an4 s 28

/-- `FLD AN4`: analog input 4 (R154). -/
def execFldAn4 (s : State) : Host.Outcome State Fault Refusal :=
  fldAn4With Config.params s

end Sys2Proof.Machine
end

