-- ==== Sys2Proof/Machine/FieldsPosition.lean ====
section
/-! DEFINITION. The FLD selectors of bytes 29 to 69 (spec/45_fields_position_time.md R161 to R182), over the
common rule R130 and the scaled-field rule R183; UTC fields are plain unsigned binary (R184). -/

namespace Sys2Proof.Machine

/-- `FLD MILE`: mileage counter (R161). -/
def execFldMile (s : State) : Host.Outcome State Fault Refusal :=
  fieldPlain s 29 3 .le

/-- `FLD MPF`: multi-purpose field (R162). -/
def execFldMpf (s : State) : Host.Outcome State Fault Refusal :=
  fieldPlain s 32 6 .le

/-- `FLD LGF`: last GPS fix, raw 16 bits (R163). -/
def execFldLgf (s : State) : Host.Outcome State Fault Refusal :=
  fieldRead s 38 2 .le fun v =>
    ⟨regOfNat v, regOfNat (bitSlice v 15 11), regOfNat (bitSlice v 10 6), regOfNat (bitSlice v 5 0)⟩

/-- `FLD LGFD`: last GPS fix, day (R164). -/
def execFldLgfd (s : State) : Host.Outcome State Fault Refusal :=
  fieldRead s 38 2 .le fun v => result0 (regOfNat (bitSlice v 15 11))

/-- `FLD LGFH`: last GPS fix, hour (R165). -/
def execFldLgfh (s : State) : Host.Outcome State Fault Refusal :=
  fieldRead s 38 2 .le fun v => result0 (regOfNat (bitSlice v 10 6))

/-- `FLD LGFM`: last GPS fix, minute (R166). -/
def execFldLgfm (s : State) : Host.Outcome State Fault Refusal :=
  fieldRead s 38 2 .le fun v => result0 (regOfNat (bitSlice v 5 0))

/-- `FLD LOCS`: location status (R167). -/
def execFldLocs (s : State) : Host.Outcome State Fault Refusal :=
  fieldPlain s 40 1 .be

/-- `FLD MOD1`: mode 1 (R168). -/
def execFldMod1 (s : State) : Host.Outcome State Fault Refusal :=
  fieldPlain s 41 1 .be

/-- `FLD MOD2`: mode 2 (R169). -/
def execFldMod2 (s : State) : Host.Outcome State Fault Refusal :=
  fieldPlain s 42 1 .be

/-- `FLD SATS`: satellites used (R170). -/
def execFldSats (s : State) : Host.Outcome State Fault Refusal :=
  fieldPlain s 43 1 .be

/-- `FLD LONR`: longitude raw (R171). -/
def execFldLonr (s : State) : Host.Outcome State Fault Refusal :=
  fieldPlain s 44 4 .le

/-- `FLD LATR`: latitude raw (R172). -/
def execFldLatr (s : State) : Host.Outcome State Fault Refusal :=
  fieldPlain s 48 4 .le

/-- `FLD ALT` for the parameters `p` (R173). -/
def fldAltWith (p : Params) (s : State) : Host.Outcome State Fault Refusal :=
  fieldScaled p.altScale p.altFrac s 52 4

/-- `FLD ALT`: altitude (R173). -/
def execFldAlt (s : State) : Host.Outcome State Fault Refusal :=
  fldAltWith Config.params s

/-- `FLD GSPD` for the parameters `p` (R174) (`SPD_FRAC = 3` is FIXED, R4). -/
def fldGspdWith (p : Params) (s : State) : Host.Outcome State Fault Refusal :=
  fieldScaled p.spdScale 3 s 56 4

/-- `FLD GSPD`: ground speed (R174). -/
def execFldGspd (s : State) : Host.Outcome State Fault Refusal :=
  fldGspdWith Config.params s

/-- `FLD SDIR` for the parameters `p` (R175). -/
def fldSdirWith (p : Params) (s : State) : Host.Outcome State Fault Refusal :=
  fieldScaled p.dirScale p.dirFrac s 60 2

/-- `FLD SDIR`: speed direction (R175). -/
def execFldSdir (s : State) : Host.Outcome State Fault Refusal :=
  fldSdirWith Config.params s

/-- `FLD USEC`: UTC seconds (R176). -/
def execFldUsec (s : State) : Host.Outcome State Fault Refusal :=
  fieldPlain s 62 1 .be

/-- `FLD UMIN`: UTC minutes (R177). -/
def execFldUmin (s : State) : Host.Outcome State Fault Refusal :=
  fieldPlain s 63 1 .be

/-- `FLD UHR`: UTC hours (R178). -/
def execFldUhr (s : State) : Host.Outcome State Fault Refusal :=
  fieldPlain s 64 1 .be

/-- `FLD UDAY`: UTC day (R179). -/
def execFldUday (s : State) : Host.Outcome State Fault Refusal :=
  fieldPlain s 65 1 .be

/-- `FLD UMON`: UTC month (R180). -/
def execFldUmon (s : State) : Host.Outcome State Fault Refusal :=
  fieldPlain s 66 1 .be

/-- `FLD UYEAR`: UTC year (R181). -/
def execFldUyear (s : State) : Host.Outcome State Fault Refusal :=
  fieldPlain s 67 2 .le

/-- `FLD CKB`: embedded checksum byte (R182). -/
def execFldCkb (s : State) : Host.Outcome State Fault Refusal :=
  fieldPlain s 69 1 .be

end Sys2Proof.Machine
end

