-- ==== Sys2Proof/Machine/FrameControl.lean ====
section
/-! DEFINITION. The frame control commands CLR, PUSH, COMMIT, STAT (spec/40_frame_control.md R71 to R74). -/

namespace Sys2Proof.Machine

/-- `CLR` (R71): all frame and error state cleared; always `OK`. -/
def execClr (s : State) : Host.Outcome State Fault Refusal :=
  .next (finish { s with frame := [], bad := 0, cnt := 0, valid := false, eflags := 0 } ⟨0, 0, 0, 0⟩)

/-- The load of one character at `CNT < 140` (R72). -/
def loadChar (ch : Byte) (s : State) : State :=
  let i := s.cnt.toNat
  match hexDigit ch with
  | some d => { s with frame := writeNibble s.frame i d, cnt := s.cnt + 1 }
  | none => { s with frame := writeNibble s.frame i 0, bad := markBad s.bad (i / 2), cnt := s.cnt + 1 }

/-- `PUSH ch` (R72). -/
def execPush (ch : Byte) (s : State) : Host.Outcome State Fault Refusal :=
  if s.valid then .next (raise s ⟨.frameLocked, 0⟩)
  else
    let s' := if s.cnt.toNat ≥ 140 then { s with cnt := 141 } else loadChar ch s
    .next (finish s' (result0 (regOfNat s'.cnt.toNat)))

/-- `COMMIT` (R73): the construction check. -/
def execCommit (s : State) : Host.Outcome State Fault Refusal :=
  if s.valid then .next (raise s ⟨.frameLocked, 0⟩)
  else if s.cnt.toNat = 0 then .next (raise s ⟨.constructionEmpty, 0⟩)
  else if s.cnt.toNat ≠ 140 then .next (raise s ⟨.constructionLength, regOfNat s.cnt.toNat⟩)
  else .next (finish { s with valid := true } (result0 (regOfNat 140)))

/-- `STAT` (R74): `CNT`, `VALID`, `EFLAGS` as left by earlier commands, `FIRSTBAD`. -/
def execStat (s : State) : Host.Outcome State Fault Refusal :=
  .next (finish s
    ⟨regOfNat s.cnt.toNat, regOfNat s.valid.toNat, regOfNat s.eflags.toNat, regOfNat (firstBadView s.bad)⟩)

end Sys2Proof.Machine
end

