-- ==== Sys2Proof/Machine/Dispatch.lean ====
section
/-! DEFINITION. The dispatch of commands to their meanings, one arm per constructor of Instr. -/

namespace Sys2Proof.Machine

def exec (i : Instr) (s : State) : Host.Outcome State Fault Refusal :=
  match i with
  | .clr => Sys2Proof.Machine.execClr s
  | .push ch => Sys2Proof.Machine.execPush ch s
  | .commit => Sys2Proof.Machine.execCommit s
  | .stat => Sys2Proof.Machine.execStat s
  | .getb off cnt => Sys2Proof.Machine.execGetb off cnt s
  | .getr off cnt => Sys2Proof.Machine.execGetr off cnt s
  | .bfx off cnt4 rev dir pos wid => Sys2Proof.Machine.execBfx off cnt4 rev dir pos wid s
  | .invb off cnt rev => Sys2Proof.Machine.execInvb off cnt rev s
  | .csum off cnt => Sys2Proof.Machine.execCsum off cnt s
  | .edc => Sys2Proof.Machine.execEdc s
  | .londd => Sys2Proof.Machine.execLondd s
  | .latdd => Sys2Proof.Machine.execLatdd s
  | .londms => Sys2Proof.Machine.execLondms s
  | .latdms => Sys2Proof.Machine.execLatdms s
  | .fldSysc => Sys2Proof.Machine.execFldSysc s
  | .fldMtyp => Sys2Proof.Machine.execFldMtyp s
  | .fldUid => Sys2Proof.Machine.execFldUid s
  | .fldCcf => Sys2Proof.Machine.execFldCcf s
  | .fldMnum => Sys2Proof.Machine.execFldMnum s
  | .fldHwv => Sys2Proof.Machine.execFldHwv s
  | .fldHwmodel => Sys2Proof.Machine.execFldHwmodel s
  | .fldHwmodem => Sys2Proof.Machine.execFldHwmodem s
  | .fldSwv => Sys2Proof.Machine.execFldSwv s
  | .fldPrv => Sys2Proof.Machine.execFldPrv s
  | .fldUsgo => Sys2Proof.Machine.execFldUsgo s
  | .fldCgsm => Sys2Proof.Machine.execFldCgsm s
  | .fldTrsd => Sys2Proof.Machine.execFldTrsd s
  | .fldTrsn => Sys2Proof.Machine.execFldTrsn s
  | .fldMode => Sys2Proof.Machine.execFldMode s
  | .fldIo1 => Sys2Proof.Machine.execFldIo1 s
  | .fldIo2 => Sys2Proof.Machine.execFldIo2 s
  | .fldIo3 => Sys2Proof.Machine.execFldIo3 s
  | .fldIo4 => Sys2Proof.Machine.execFldIo4 s
  | .fldIo5 => Sys2Proof.Machine.execFldIo5 s
  | .fldAn1 => Sys2Proof.Machine.execFldAn1 s
  | .fldAn2 => Sys2Proof.Machine.execFldAn2 s
  | .fldAn3 => Sys2Proof.Machine.execFldAn3 s
  | .fldAn4 => Sys2Proof.Machine.execFldAn4 s
  | .fldMile => Sys2Proof.Machine.execFldMile s
  | .fldMpf => Sys2Proof.Machine.execFldMpf s
  | .fldLgf => Sys2Proof.Machine.execFldLgf s
  | .fldLgfd => Sys2Proof.Machine.execFldLgfd s
  | .fldLgfh => Sys2Proof.Machine.execFldLgfh s
  | .fldLgfm => Sys2Proof.Machine.execFldLgfm s
  | .fldLocs => Sys2Proof.Machine.execFldLocs s
  | .fldMod1 => Sys2Proof.Machine.execFldMod1 s
  | .fldMod2 => Sys2Proof.Machine.execFldMod2 s
  | .fldSats => Sys2Proof.Machine.execFldSats s
  | .fldLonr => Sys2Proof.Machine.execFldLonr s
  | .fldLatr => Sys2Proof.Machine.execFldLatr s
  | .fldAlt => Sys2Proof.Machine.execFldAlt s
  | .fldGspd => Sys2Proof.Machine.execFldGspd s
  | .fldSdir => Sys2Proof.Machine.execFldSdir s
  | .fldUsec => Sys2Proof.Machine.execFldUsec s
  | .fldUmin => Sys2Proof.Machine.execFldUmin s
  | .fldUhr => Sys2Proof.Machine.execFldUhr s
  | .fldUday => Sys2Proof.Machine.execFldUday s
  | .fldUmon => Sys2Proof.Machine.execFldUmon s
  | .fldUyear => Sys2Proof.Machine.execFldUyear s
  | .fldCkb => Sys2Proof.Machine.execFldCkb s

end Sys2Proof.Machine
end

