-- ==== Sys2Proof/WellFormed.lean ====
section
/-! DEFINITION. Which commands the encoding can spell: the ranges of the operand fields
(30_encoding.md R52 to R54). Values out of range for the frame (an `OFF` above 69) are legal encodings (R59). -/

namespace Sys2Proof

/-- Format A operands (R53): `OFF` and `CNT` are unsigned 0 to 127. -/
def rangeFits (off cnt : Nat) : Bool :=
  decide (off < 128) && decide (cnt < 128)

/-- A command whose operands fit their fields (R52 to R56). Commands without operands always do, and so does
`PUSH`, whose operand is a byte. -/
def Instr.wellFormed (i : Instr) : Bool :=
  match i with
  | .getb off cnt | .getr off cnt | .csum off cnt => rangeFits off cnt
  | .invb off cnt _ => rangeFits off cnt
  | .bfx off cnt4 _ _ pos wid =>
    decide (off < 128) && decide (cnt4 < 16) && decide (pos < 64) && decide (wid < 64)
  | .push _ => true
  | .clr | .commit | .stat | .edc | .londd | .latdd | .londms | .latdms => true
  | .fldSysc | .fldMtyp | .fldUid | .fldCcf | .fldMnum | .fldHwv | .fldHwmodel | .fldHwmodem => true
  | .fldSwv | .fldPrv | .fldUsgo | .fldCgsm | .fldTrsd | .fldTrsn | .fldMode => true
  | .fldIo1 | .fldIo2 | .fldIo3 | .fldIo4 | .fldIo5 | .fldAn1 | .fldAn2 | .fldAn3 | .fldAn4 => true
  | .fldMile | .fldMpf | .fldLgf | .fldLgfd | .fldLgfh | .fldLgfm | .fldLocs | .fldMod1 | .fldMod2 => true
  | .fldSats | .fldLonr | .fldLatr | .fldAlt | .fldGspd | .fldSdir => true
  | .fldUsec | .fldUmin | .fldUhr | .fldUday | .fldUmon | .fldUyear | .fldCkb => true

end Sys2Proof
end

