-- ==== Sys2Proof/Decode.lean ====
section
/-! DEFINITION. The decoder, total on every 32-bit word, and after it the encoder
(30_encoding.md R50 to R61). A word the decoder rejects is one that R61 reserves. -/

namespace Sys2Proof

/-- Why a word is a reserved encoding (30_encoding.md R61 (a) to (d)). Every one of them makes the machine
raise `IllegalCommand` (60_exceptions.md R202). -/
inductive Illegal where
  /-- R61 (a): an unassigned opcode. -/
  | reservedOpcode
  /-- R61 (b): a set bit among the format's must-be-zero bits. -/
  | mustBeZero
  /-- R61 (c): `CSUM` with `REV = 1`. -/
  | csumReversed
  /-- R61 (d): an unassigned `FLD` selector. -/
  | reservedSelector
  deriving DecidableEq, Repr

/-- The `len` bits of a command word from bit `lo` upward, as an unsigned number (R56). -/
def wordField (w : CmdWord) (lo len : Nat) : Nat :=
  w.toNat / 2 ^ lo % 2 ^ len

/-- The byte order a `REV` bit spells (R53). -/
def decodeOrder (bit : Nat) : ByteOrder :=
  if bit = 0 then .be else .le

/-- The counting direction a `DIR` bit spells (R54). -/
def decodeDir (bit : Nat) : BitDir :=
  if bit = 0 then .lsb else .msb

/-- The selector map of R60. -/
def selectorInstr (sel : Nat) : Option Instr :=
  match sel with
  | 0x00 => some .fldSysc
  | 0x01 => some .fldMtyp
  | 0x02 => some .fldUid
  | 0x03 => some .fldCcf
  | 0x04 => some .fldMnum
  | 0x05 => some .fldHwv
  | 0x06 => some .fldHwmodel
  | 0x07 => some .fldHwmodem
  | 0x08 => some .fldSwv
  | 0x09 => some .fldPrv
  | 0x0A => some .fldUsgo
  | 0x0B => some .fldCgsm
  | 0x0C => some .fldTrsd
  | 0x0D => some .fldTrsn
  | 0x0E => some .fldMode
  | 0x0F => some .fldIo1
  | 0x10 => some .fldIo2
  | 0x11 => some .fldIo3
  | 0x12 => some .fldIo4
  | 0x13 => some .fldIo5
  | 0x14 => some .fldAn1
  | 0x15 => some .fldAn2
  | 0x16 => some .fldAn3
  | 0x17 => some .fldAn4
  | 0x18 => some .fldMile
  | 0x19 => some .fldMpf
  | 0x1A => some .fldLgf
  | 0x1B => some .fldLgfd
  | 0x1C => some .fldLgfh
  | 0x1D => some .fldLgfm
  | 0x1E => some .fldLocs
  | 0x1F => some .fldMod1
  | 0x20 => some .fldMod2
  | 0x21 => some .fldSats
  | 0x22 => some .fldLonr
  | 0x23 => some .fldLatr
  | 0x24 => some .fldAlt
  | 0x25 => some .fldGspd
  | 0x26 => some .fldSdir
  | 0x27 => some .fldUsec
  | 0x28 => some .fldUmin
  | 0x29 => some .fldUhr
  | 0x2A => some .fldUday
  | 0x2B => some .fldUmon
  | 0x2C => some .fldUyear
  | 0x2D => some .fldCkb
  | _ => none

/-- Format Z (R51): bits 25:0 must be zero. -/
def decodeZ (w : CmdWord) (i : Instr) : Except Illegal Instr :=
  if wordField w 0 26 = 0 then .ok i else .error .mustBeZero

/-- Format C (R52): bits 25:8 must be zero, `CH` in bits 7:0. -/
def decodeC (w : CmdWord) : Except Illegal Instr :=
  if wordField w 8 18 = 0 then .ok (.push (BitVec.ofNat 8 (wordField w 0 8)))
  else .error .mustBeZero

/-- Format A (R53): `OFF` 25:19, `CNT` 18:12, `REV` 11, bits 10:0 must be zero. -/
def decodeA (w : CmdWord) (mk : Nat → Nat → ByteOrder → Except Illegal Instr) :
    Except Illegal Instr :=
  if wordField w 0 11 = 0 then
    mk (wordField w 19 7) (wordField w 12 7) (decodeOrder (wordField w 11 1))
  else .error .mustBeZero

/-- Opcode 0x08 (R53, R57): `GETB` and `GETR` differ in `REV`. -/
def decodeGet (off cnt : Nat) (rev : ByteOrder) : Except Illegal Instr :=
  match rev with
  | .be => .ok (.getb off cnt)
  | .le => .ok (.getr off cnt)

/-- Opcode 0x10 (R53, R61 (c)): `CSUM` must have `REV = 0`. -/
def decodeCsum (off cnt : Nat) (rev : ByteOrder) : Except Illegal Instr :=
  match rev with
  | .be => .ok (.csum off cnt)
  | .le => .error .csumReversed

/-- Format B (R54): `OFF` 25:19, `CNT4` 18:15, `REV` 14, `DIR` 13, `POS` 12:7, `WID` 6:1, bit 0 must be zero. -/
def decodeB (w : CmdWord) : Except Illegal Instr :=
  if wordField w 0 1 = 0 then
    .ok (.bfx (wordField w 19 7) (wordField w 15 4) (decodeOrder (wordField w 14 1))
      (decodeDir (wordField w 13 1)) (wordField w 7 6) (wordField w 1 6))
  else .error .mustBeZero

/-- Format F (R55, R60): bits 25:8 must be zero, then `SEL` in bits 7:0 must be assigned. -/
def decodeF (w : CmdWord) : Except Illegal Instr :=
  if wordField w 8 18 = 0 then
    match selectorInstr (wordField w 0 8) with
    | some i => .ok i
    | none => .error .reservedSelector
  else .error .mustBeZero

/-- The decoder, in the order of R59: the opcode (map of R57), then the must-be-zero bits of the format, then the
`FLD` selector. -/
def decode (w : CmdWord) : Except Illegal Instr :=
  match wordField w 26 6 with
  | 0x01 => decodeZ w .clr
  | 0x02 => decodeC w
  | 0x03 => decodeZ w .commit
  | 0x04 => decodeZ w .stat
  | 0x08 => decodeA w decodeGet
  | 0x0A => decodeB w
  | 0x0B => decodeA w fun off cnt rev => .ok (.invb off cnt rev)
  | 0x10 => decodeA w decodeCsum
  | 0x11 => decodeZ w .edc
  | 0x18 => decodeZ w .londd
  | 0x19 => decodeZ w .latdd
  | 0x1A => decodeZ w .londms
  | 0x1B => decodeZ w .latdms
  | 0x20 => decodeF w
  | _ => .error .reservedOpcode

/-- The instruction the decoder reads from an opcode-table row's bits. A row is one 32-bit word (R50), and the word
stands on the command port as it is, so there is no byte order to lay it out in. -/
def decodeTableWord (nbits w : Nat) : Option Instr :=
  match decode (BitVec.ofNat 32 (w % 2 ^ nbits)) with
  | .ok i => some i
  | .error _ => none

/-- The `REV` bit of a byte order (R53). -/
def ByteOrder.bit : ByteOrder → Nat
  | .be => 0
  | .le => 1

/-- The `DIR` bit of a counting direction (R54). -/
def BitDir.bit : BitDir → Nat
  | .lsb => 0
  | .msb => 1

/-- The encoding of a command as a number: the word with operands zero of R57 (for `FLD`, R60) plus its operand fields
at the positions of R51 to R55. -/
def encodeNat (i : Instr) : Nat :=
  match i with
  | .clr => 0x04000000
  | .push ch => 0x08000000 + ch.toNat
  | .commit => 0x0C000000
  | .stat => 0x10000000
  | .getb off cnt => 0x20000000 + off * 2 ^ 19 + cnt * 2 ^ 12
  | .getr off cnt => 0x20000800 + off * 2 ^ 19 + cnt * 2 ^ 12
  | .bfx off cnt4 rev dir pos wid =>
    0x28000000 + off * 2 ^ 19 + cnt4 * 2 ^ 15 + rev.bit * 2 ^ 14 + dir.bit * 2 ^ 13 + pos * 2 ^ 7 + wid * 2
  | .invb off cnt rev => 0x2C000000 + off * 2 ^ 19 + cnt * 2 ^ 12 + rev.bit * 2 ^ 11
  | .csum off cnt => 0x40000000 + off * 2 ^ 19 + cnt * 2 ^ 12
  | .edc => 0x44000000
  | .londd => 0x60000000
  | .latdd => 0x64000000
  | .londms => 0x68000000
  | .latdms => 0x6C000000
  | .fldSysc => 0x80000000 + 0x00
  | .fldMtyp => 0x80000000 + 0x01
  | .fldUid => 0x80000000 + 0x02
  | .fldCcf => 0x80000000 + 0x03
  | .fldMnum => 0x80000000 + 0x04
  | .fldHwv => 0x80000000 + 0x05
  | .fldHwmodel => 0x80000000 + 0x06
  | .fldHwmodem => 0x80000000 + 0x07
  | .fldSwv => 0x80000000 + 0x08
  | .fldPrv => 0x80000000 + 0x09
  | .fldUsgo => 0x80000000 + 0x0A
  | .fldCgsm => 0x80000000 + 0x0B
  | .fldTrsd => 0x80000000 + 0x0C
  | .fldTrsn => 0x80000000 + 0x0D
  | .fldMode => 0x80000000 + 0x0E
  | .fldIo1 => 0x80000000 + 0x0F
  | .fldIo2 => 0x80000000 + 0x10
  | .fldIo3 => 0x80000000 + 0x11
  | .fldIo4 => 0x80000000 + 0x12
  | .fldIo5 => 0x80000000 + 0x13
  | .fldAn1 => 0x80000000 + 0x14
  | .fldAn2 => 0x80000000 + 0x15
  | .fldAn3 => 0x80000000 + 0x16
  | .fldAn4 => 0x80000000 + 0x17
  | .fldMile => 0x80000000 + 0x18
  | .fldMpf => 0x80000000 + 0x19
  | .fldLgf => 0x80000000 + 0x1A
  | .fldLgfd => 0x80000000 + 0x1B
  | .fldLgfh => 0x80000000 + 0x1C
  | .fldLgfm => 0x80000000 + 0x1D
  | .fldLocs => 0x80000000 + 0x1E
  | .fldMod1 => 0x80000000 + 0x1F
  | .fldMod2 => 0x80000000 + 0x20
  | .fldSats => 0x80000000 + 0x21
  | .fldLonr => 0x80000000 + 0x22
  | .fldLatr => 0x80000000 + 0x23
  | .fldAlt => 0x80000000 + 0x24
  | .fldGspd => 0x80000000 + 0x25
  | .fldSdir => 0x80000000 + 0x26
  | .fldUsec => 0x80000000 + 0x27
  | .fldUmin => 0x80000000 + 0x28
  | .fldUhr => 0x80000000 + 0x29
  | .fldUday => 0x80000000 + 0x2A
  | .fldUmon => 0x80000000 + 0x2B
  | .fldUyear => 0x80000000 + 0x2C
  | .fldCkb => 0x80000000 + 0x2D

/-- The command word of a well-formed command (R50, R57, R60). -/
def encode (i : Instr) : CmdWord :=
  BitVec.ofNat 32 (encodeNat i)

/-- The opcode of a command (R57). -/
def opcode (i : Instr) : Nat :=
  match i with
  | .clr => 0x01
  | .push _ => 0x02
  | .commit => 0x03
  | .stat => 0x04
  | .getb _ _ => 0x08
  | .getr _ _ => 0x08
  | .bfx _ _ _ _ _ _ => 0x0A
  | .invb _ _ _ => 0x0B
  | .csum _ _ => 0x10
  | .edc => 0x11
  | .londd => 0x18
  | .latdd => 0x19
  | .londms => 0x1A
  | .latdms => 0x1B
  | .fldSysc | .fldMtyp | .fldUid | .fldCcf | .fldMnum | .fldHwv
  | .fldHwmodel | .fldHwmodem | .fldSwv | .fldPrv | .fldUsgo | .fldCgsm
  | .fldTrsd | .fldTrsn | .fldMode | .fldIo1 | .fldIo2 | .fldIo3
  | .fldIo4 | .fldIo5 | .fldAn1 | .fldAn2 | .fldAn3 | .fldAn4
  | .fldMile | .fldMpf | .fldLgf | .fldLgfd | .fldLgfh | .fldLgfm
  | .fldLocs | .fldMod1 | .fldMod2 | .fldSats | .fldLonr | .fldLatr
  | .fldAlt | .fldGspd | .fldSdir | .fldUsec | .fldUmin | .fldUhr
  | .fldUday | .fldUmon | .fldUyear | .fldCkb => 0x20

end Sys2Proof
end

