-- ==== Sys2Proof/Machine/Port.lean ====
section
/-! DEFINITION. What a step does at the ports around a command (spec/00_scope.md R5, 60_exceptions.md R202, R210,
70_reset_and_hazards.md R230). -/

namespace Sys2Proof.Machine

/-- The head of the host's events is taken; `rest` stays presented (R5). -/
def accept (s : State) (rest : List PortEvent) : State :=
  { s with inbox := rest }

/-- Nothing is presented: `rsp_valid`, raised for one cycle, falls; nothing else changes (R5, R210). -/
def idle (s : State) : State :=
  { s with rspValid := false }

/-- A reserved word: `IllegalCommand` with `R[0]` the word, zero-extended (R202). -/
def illegal (w : CmdWord) (s : State) : State :=
  raise s ⟨.illegalCommand, regOfNat w.toNat⟩

/-- `rst`: every piece of state takes its reset value; a command in progress is dropped without a response (R230).
The host's further events stay. -/
def applyReset (rest : List PortEvent) : State :=
  { State.reset with inbox := rest }

/-- A word presented ahead of the host's other events. -/
def presentWord (s : State) (w : CmdWord) : State :=
  { s with inbox := .command w :: s.inbox }

/-- One step at the ports (R5 to R7), `run` being what the instance does with a decoded command. Nothing presented: the
TFD does not act (60_exceptions.md R210). A command word: decoded (30_encoding.md R59), then run, or `IllegalCommand`
(60_exceptions.md R202). `rst`: the reset state (70_reset_and_hazards.md R230). -/
def portStep (run : Instr → State → Host.Outcome State Fault Refusal) (s : State) : Host.Outcome State Fault Refusal :=
  match s.inbox with
  | [] => .next (idle s)
  | .command w :: rest =>
    match decode w with
    | .ok i => run i (accept s rest)
    | .error _ => .next (illegal w (accept s rest))
  | .reset :: rest => .next (applyReset rest)
  | .resetDuring _ :: rest => .next (applyReset rest)

end Sys2Proof.Machine
end

