-- ==== Sys2Proof/Machine/Step.lean ====
section
/-! DEFINITION. One step of the TFD: the next event at the ports (spec/00_scope.md R5 to R7). -/

namespace Sys2Proof.Machine

/-- One step of the machine: the instance whose parameters are `Config.params` (log 19). -/
def step (s : State) : Host.Outcome State Fault Refusal :=
  portStep exec s

/-- `s` with an instruction's word presented at the command port, where the next step takes its command from. -/
def State.withFetchWord (s : State) (nbits w : Nat) : State :=
  presentWord s (BitVec.ofNat 32 (w % 2 ^ nbits))

end Sys2Proof.Machine
end

