-- ==== Sys2Proof/Machine/Instances.lean ====
section
/-! DEFINITION. Several TFD instances side by side (spec/20_memory.md R45, 60_exceptions.md R216): each is complete in
itself, with its own state and its own parameters, and a step of one is a step of that one. -/

namespace Sys2Proof.Machine

/-- What a command does in an instance with the parameters `p` (R45, 10_state.md R18): the twelve commands that read a
parameter take it from `p`, the others are the same in every instance. -/
def execIn (p : Params) (i : Instr) (s : State) : Host.Outcome State Fault Refusal :=
  match i with
  | .edc => edcWith p s
  | .londd => ddWith p .lon s
  | .latdd => ddWith p .lat s
  | .londms => dmsWith p .lon s
  | .latdms => dmsWith p .lat s
  | .fldAn1 => fldAn1With p s
  | .fldAn2 => fldAn2With p s
  | .fldAn3 => fldAn3With p s
  | .fldAn4 => fldAn4With p s
  | .fldAlt => fldAltWith p s
  | .fldGspd => fldGspdWith p s
  | .fldSdir => fldSdirWith p s
  | .clr | .push _ | .commit | .stat | .getb _ _ | .getr _ _ | .bfx _ _ _ _ _ _ | .invb _ _ _ | .csum _ _
  | .fldSysc | .fldMtyp | .fldUid | .fldCcf | .fldMnum | .fldHwv | .fldHwmodel | .fldHwmodem | .fldSwv
  | .fldPrv | .fldUsgo | .fldCgsm | .fldTrsd | .fldTrsn | .fldMode | .fldIo1 | .fldIo2 | .fldIo3 | .fldIo4
  | .fldIo5 | .fldMile | .fldMpf | .fldLgf | .fldLgfd | .fldLgfh | .fldLgfm | .fldLocs | .fldMod1 | .fldMod2
  | .fldSats | .fldLonr | .fldLatr | .fldUsec | .fldUmin | .fldUhr | .fldUday | .fldUmon | .fldUyear | .fldCkb => exec i s

/-- One step of an instance with the parameters `p`. -/
def stepIn (p : Params) (s : State) : Host.Outcome State Fault Refusal :=
  portStep (execIn p) s

/-- One instance: its parameters, fixed when it is made (70_reset_and_hazards.md R231) and none that the spec refuses
(93_implementation_defined.md section 1), and its state. -/
structure Instance where
  params : Params
  params_legal : params.legal = true
  state : State
  deriving DecidableEq, Repr

/-- An instance with another state; its parameters stay (R231). -/
def Instance.withState (a : Instance) (t : State) : Instance :=
  { a with state := t }

/-- Instance `k` takes a step; every other instance stays. An index that names no instance changes nothing. -/
def stepInstance (k : Nat) (instances : List Instance) : List Instance :=
  match instances with
  | [] => []
  | a :: rest =>
    match k with
    | 0 =>
      match stepIn a.params a.state with
      | .next t => a.withState t :: rest
      | .fault _ => a :: rest
      | .refused _ => a :: rest
    | j + 1 => a :: stepInstance j rest
termination_by structural instances

/-- A run of commands issued one after another, each on the state the one before it left (20_memory.md R42). -/
def execAll (is : List Instr) (s : State) : Host.Outcome State Fault Refusal :=
  match is with
  | [] => .next s
  | i :: rest =>
    match exec i s with
    | .next t => execAll rest t
    | .fault r => .fault r
    | .refused r => .refused r

end Sys2Proof.Machine
end

