-- ==== Sys2Proof/Machine/Text.lean ====
section
/-! DEFINITION. The helpers of the source as functions on character strings (spec/41_accessor.md R80 to R88). A
string is a list of characters. Where a helper is not defined on a string (N9, R81), it answers none (DESIGN CHOICE,
log 14). The TFD itself holds numbers and needs none of them (R89). -/

namespace Sys2Proof.Machine

/-- A string of characters. -/
abbrev Text := List Char

/-- `slice(frame, off, cnt)` (R80): defined only for `off + cnt <= 70`, and on a frame of 140 characters. On a text of
any other length, which is no RawFrame, it answers none (DESIGN CHOICE, log 14). -/
def slice (frame : Text) (off cnt : Nat) : Option Text :=
  if frame.length = 140 ∧ off + cnt ≤ 70 then some ((frame.drop (2 * off)).take (2 * cnt)) else none

/-- The value of a character as a hexadecimal digit (20_memory.md R33). -/
def charHex (c : Char) : Option Nat :=
  if c.toNat < 256 then hexDigit (BitVec.ofNat 8 c.toNat) else none

/-- The digits of a string in a digit alphabet, none if a character is outside it. -/
def textDigits (digit : Char → Option Nat) (h : Text) : Option (List Nat) :=
  match h with
  | [] => some []
  | c :: rest =>
    match digit c, textDigits digit rest with
    | some d, some ds => some (d :: ds)
    | _, _ => none

/-- The number a nonempty numeral in base `b` spells, first character most significant. -/
def numeralValue (b : Nat) (digit : Char → Option Nat) (h : Text) : Option Nat :=
  if h = [] then none else (textDigits digit h).map (digitsValue b)

/-- `hex_to_decimal(h)` (R81). -/
def hexToDecimal (h : Text) : Option Nat :=
  numeralValue 16 charHex h

/-- The character of a digit below 16, upper case (R82). -/
def digitChar (d : Nat) : Char :=
  if d < 10 then Char.ofNat (0x30 + d) else Char.ofNat (0x41 + (d - 10))

/-- The digits of `n` in base `b`, least significant first, at most `fuel` of them. -/
def digitsLow (fuel b n : Nat) : List Nat :=
  match fuel with
  | 0 => []
  | k + 1 => n % b :: (if n / b = 0 then [] else digitsLow k b (n / b))

/-- The shortest numeral of `n` in base `b` (2 to 16), "0" for 0 (R82, R83): no base needs more digits than base 2. -/
def numeral (b n : Nat) : Text :=
  (digitsLow (Nat.log2 n + 1) b n).reverse.map digitChar

/-- `decimal_to_hex(n)` (R82). -/
def decimalToHex (n : Nat) : Text :=
  numeral 16 n

/-- `hex_to_binary(h)` (R83). -/
def hexToBinary (h : Text) : Option Text :=
  (hexToDecimal h).map (numeral 2)

/-- The value of a character as a binary digit. -/
def charBit (c : Char) : Option Nat :=
  if c = '0' then some 0 else if c = '1' then some 1 else none

/-- `binary_to_decimal(b)` (R84). -/
def binaryToDecimal (b : Text) : Option Nat :=
  numeralValue 2 charBit b

/-- The two-character byte groups of a string, none when its length is odd. -/
def byteGroups (h : Text) : Option (List (Char × Char)) :=
  match h with
  | [] => some []
  | [_] => none
  | a :: b :: rest => (byteGroups rest).map ((a, b) :: ·)

/-- The string of a list of byte groups. -/
def joinGroups (gs : List (Char × Char)) : Text :=
  match gs with
  | [] => []
  | (a, b) :: rest => a :: b :: joinGroups rest

/-- `reverse_byte_order(h)` for a string of even length (R85). -/
def reverseByteOrder (h : Text) : Option Text :=
  (byteGroups h).map fun gs => joinGroups gs.reverse

/-- `left_pad(v, w, c)` on the textual form of `v` (R86). -/
def leftPad (v : Text) (w : Nat) (c : Char) : Text :=
  List.replicate (w - v.length) c ++ v

/-- The byte a group spells. -/
def groupByte (g : Char × Char) : Option Nat :=
  match charHex g.1, charHex g.2 with
  | some hi, some lo => some (hi * 16 + lo)
  | _, _ => none

/-- The bytes of a list of groups, none if a character is not a hexadecimal digit. -/
def groupBytes (gs : List (Char × Char)) : Option (List Nat) :=
  match gs with
  | [] => some []
  | g :: rest =>
    match groupByte g, groupBytes rest with
    | some b, some bs => some (b :: bs)
    | _, _ => none

/-- `ascii_from_hex(h)` (R87): Latin-1 code points. -/
def asciiFromHex (h : Text) : Option Text :=
  ((byteGroups h).bind groupBytes).map (·.map Char.ofNat)

/-- One character of `invert_bits` (R88); a character that is no binary digit has no inverse (DESIGN CHOICE, log 14). -/
def invertBit (c : Char) : Option Char :=
  if c = '0' then some '1' else if c = '1' then some '0' else none

/-- `invert_bits(b)` (R88): defined on a binary string, the empty one included; on any other it answers none
(DESIGN CHOICE, log 14). -/
def invertBits (b : Text) : Option Text :=
  match b with
  | [] => some []
  | c :: rest =>
    match invertBit c, invertBits rest with
    | some d, some ds => some (d :: ds)
    | _, _ => none

end Sys2Proof.Machine
end

