-- ==== Sys2Proof/Machine/Rendering.lean ====
section
/-! DEFINITION. The host-side text forms of the results (spec/46_text_rendering.md R190 to R199, 42_checksum.md
R106). They are functions of `R[0..3]` alone; the TFD has no logic for them (R190). Suffix strings and lookup tables are
arguments, since the spec gives none of their contents but one entry (R198, R199). -/

namespace Sys2Proof.Machine

/-- Hexadecimal text of a field of `n` bytes (R191). -/
def hexText (n : Nat) (rs : Results) : Text :=
  leftPad (decimalToHex rs.r0.toNat) (2 * n) '0'

/-- The shortest decimal numeral. -/
def decNumeral (n : Nat) : Text :=
  numeral 10 n

/-- Decimal text of an unsigned field (R192). -/
def decimalText (rs : Results) : Text :=
  decNumeral rs.r0.toNat

/-- `systemCode` text (R193). -/
def systemCodeText (rs : Results) : Text :=
  let v := rs.r0.toNat
  [Char.ofNat (bitSlice v 31 24), Char.ofNat (bitSlice v 23 16), Char.ofNat (bitSlice v 15 8),
    Char.ofNat (bitSlice v 7 0)]

/-- A UTC component (R194). -/
def utcText (rs : Results) : Text :=
  leftPad (decNumeral rs.r0.toNat) 2 '0'

/-- Text of one checksum value (R195, R106). -/
def checksumText (c : Nat) : Text :=
  leftPad (decimalToHex c) 2 '0'

/-- The two texts of `EDC`, embedded and computed (R195). -/
def edcTexts (rs : Results) : Text × Text :=
  (checksumText rs.r0.toNat, checksumText rs.r1.toNat)

/-- `sec2` (R196). -/
def secondsText (c : Nat) : Text :=
  decNumeral (c / 100) ++ '.' :: leftPad (decNumeral (c % 100)) 2 '0'

/-- `letter` (R196, codes of 43_coordinate.md R122). -/
def hemisphereText (h : Nat) : Text :=
  match h with
  | 1 => ['E']
  | 2 => ['W']
  | 3 => ['N']
  | 4 => ['S']
  | _ => []

/-- DMS text (R196): the degree sign is U+00B0, the minute sign U+0027, the second sign U+0022. -/
def dmsText (rs : Results) : Text :=
  decNumeral rs.r0.toNat ++ Char.ofNat 0xB0 :: decNumeral rs.r1.toNat ++ Char.ofNat 0x27 ::
    secondsText rs.r2.toNat ++ Char.ofNat 0x22 :: hemisphereText rs.r3.toNat

/-- The value `v * 10^-f` written with `f` fraction digits (R197, R198; the form is the model's, log 18). -/
def fixedText (v : Int) (f : Nat) : Text :=
  (if v < 0 then ['-'] else []) ++ decNumeral (v.natAbs / 10 ^ f) ++
    (if f = 0 then [] else '.' :: leftPad (decNumeral (v.natAbs % 10 ^ f)) f '0')

/-- Decimal-degree text (R197). -/
def degreesText (p : Params) (rs : Results) : Text :=
  fixedText rs.r0.toInt p.ddFrac

/-- Unit-suffixed text of `FLD GSPD` and `FLD ALT` (R198). -/
def unitText (suffix : Text) (rs : Results) : Text :=
  fixedText rs.r1.toInt rs.r2.toNat ++ suffix

/-- The three lookup tables of the host (00_scope.md R3 (b), 46_text_rendering.md R199). The keys of the hardware table,
and so the id and the code of its record, are numbers: DESIGN CHOICE, log 25, since the source does not say whether they are
numbers or hexadecimal strings (91_not_in_source.md N18). -/
structure HostTables where
  /-- (model id, model name, modem code, modem name). -/
  hardware : List (Nat × Text × Nat × Text)
  /-- (transmission-reason code, label). -/
  reasons : List (Nat × Text)
  /-- (mode code text, label). -/
  modes : List (Text × Text)
  deriving DecidableEq, Repr

/-- The only table entry the source gives: mode code "0E", "Garage Mode" (R199). -/
def garageMode : Text × Text :=
  (['0', 'E'], ['G', 'a', 'r', 'a', 'g', 'e', ' ', 'M', 'o', 'd', 'e'])

/-- The label of the first entry with a key, absent when there is none (log 16). -/
def labelOf {K : Type} [DecidableEq K] (table : List (K × Text)) (key : K) : Option Text :=
  (table.find? fun e => decide (e.1 = key)).map Prod.snd

/-- `unitsModeOfOperation`: `(code, name)` from the result of `FLD MODE` (R199). -/
def modeRecord (t : HostTables) (rs : Results) : Text × Option Text :=
  (hexText 1 rs, labelOf t.modes (hexText 1 rs))

/-- `transmissionReason`: `(code, label)` from the result of `FLD TRSN` (R199). -/
def reasonRecord (t : HostTables) (rs : Results) : Nat × Option Text :=
  (rs.r0.toNat, labelOf t.reasons rs.r0.toNat)

/-- `unitsHardwareVersion`: the `(id, name)` of model and modem from the result of `FLD HWV`, for the first entry that
matches both, both absent when none does (R199, 60_exceptions.md R208). -/
def hardwareRecord (t : HostTables) (rs : Results) : Option (Nat × Text) × Option (Nat × Text) :=
  match t.hardware.find? fun e => decide (e.1 = rs.r1.toNat) && decide (e.2.2.1 = rs.r2.toNat) with
  | some e => (some (e.1, e.2.1), some (e.2.2.1, e.2.2.2))
  | none => (none, none)

end Sys2Proof.Machine
end

