-- ==== Sys2Proof/Machine/Layout.lean ====
section
/-! DEFINITION. The frame layout (spec/20_memory.md R35), the pseudo-commands (30_encoding.md R63, R58), the bit
groups the source names (41_accessor.md R95) and the assembler text of a command (30_encoding.md R62). -/

namespace Sys2Proof.Machine

/-- One row of the layout of R35: first offset, byte count, order, and the selector that reads the whole field. -/
structure Field where
  off : Nat
  bytes : Nat
  order : ByteOrder
  selector : Instr
  deriving DecidableEq, Repr

/-- The frame layout, the whole address map (R35). Fields whose order is "-" have one byte. -/
def layout : List Field :=
  [⟨0, 4, .be, .fldSysc⟩, ⟨4, 1, .be, .fldMtyp⟩, ⟨5, 4, .le, .fldUid⟩, ⟨9, 2, .be, .fldCcf⟩,
    ⟨11, 1, .be, .fldMnum⟩, ⟨12, 1, .be, .fldHwv⟩, ⟨13, 1, .be, .fldSwv⟩, ⟨14, 1, .be, .fldPrv⟩,
    ⟨15, 1, .be, .fldUsgo⟩, ⟨16, 1, .be, .fldCgsm⟩, ⟨17, 1, .be, .fldTrsd⟩, ⟨18, 1, .be, .fldTrsn⟩,
    ⟨19, 1, .be, .fldMode⟩] ++
  [⟨20, 1, .be, .fldIo1⟩, ⟨21, 1, .be, .fldIo2⟩, ⟨22, 1, .be, .fldIo3⟩, ⟨23, 1, .be, .fldIo4⟩,
    ⟨24, 1, .be, .fldIo5⟩, ⟨25, 1, .be, .fldAn1⟩, ⟨26, 1, .be, .fldAn2⟩, ⟨27, 1, .be, .fldAn3⟩,
    ⟨28, 1, .be, .fldAn4⟩, ⟨29, 3, .le, .fldMile⟩, ⟨32, 6, .le, .fldMpf⟩, ⟨38, 2, .le, .fldLgf⟩,
    ⟨40, 1, .be, .fldLocs⟩, ⟨41, 1, .be, .fldMod1⟩, ⟨42, 1, .be, .fldMod2⟩, ⟨43, 1, .be, .fldSats⟩] ++
  [⟨44, 4, .le, .fldLonr⟩, ⟨48, 4, .le, .fldLatr⟩, ⟨52, 4, .le, .fldAlt⟩, ⟨56, 4, .le, .fldGspd⟩,
    ⟨60, 2, .le, .fldSdir⟩, ⟨62, 1, .be, .fldUsec⟩, ⟨63, 1, .be, .fldUmin⟩, ⟨64, 1, .be, .fldUhr⟩,
    ⟨65, 1, .be, .fldUday⟩, ⟨66, 1, .be, .fldUmon⟩, ⟨67, 2, .le, .fldUyear⟩, ⟨69, 1, .be, .fldCkb⟩]

/-- The five bit groups the source names, each selector with its `BFX` form (R95). -/
def namedGroups : List (Instr × Instr) :=
  [(.fldHwmodel, .bfx 12 1 .be .lsb 0 5), (.fldHwmodem, .bfx 12 1 .be .msb 0 3),
    (.fldLgfd, .bfx 38 2 .le .msb 0 5), (.fldLgfh, .bfx 38 2 .le .msb 5 5), (.fldLgfm, .bfx 38 2 .le .msb 10 6)]

/-- The pseudo-command `LOADHEX` (R63): `CLR`, one `PUSH` per character, `COMMIT`. Characters are 8-bit codes. -/
def loadHex (chars : List Byte) : List Instr :=
  .clr :: chars.map Instr.push ++ [.commit]

/-- The pseudo-command `FLAG name` for an entry of `FIELD_MAP` (R63, R96). -/
def flagInstr (e : FieldMapEntry) : Instr :=
  .bfx e.off e.cnt e.rev e.dir e.pos e.wid

/-- `FLAG name`, looked up in the parameter `FIELD_MAP` (R63, R96). Where two entries have the name, the first is taken:
DESIGN CHOICE, log 23, since the spec does not say which is meant. -/
def flagByName (p : Params) (name : String) : Option Instr :=
  (p.fieldMap.find? fun e => decide (e.name = name)).map flagInstr

/-- The commands paired with the source's accessor names (30_encoding.md R63): the selectors of 20_memory.md R35, then the
commands of 30_encoding.md R58 that are no selector. The name
"analogInputs" (one for the four analog accessors) is coined here: DESIGN CHOICE, log 24, since the source gives those
accessors as a count without an identifier (91_not_in_source.md N20). -/
def accessorCommands : List (String × List Instr) :=
  [("systemCode", [.fldSysc]), ("messageType", [.fldMtyp]), ("unitsId", [.fldUid]),
    ("communicationControlField", [.fldCcf]), ("messageNumerator", [.fldMnum]), ("unitsHardwareVersion", [.fldHwv]),
    ("unitsStatusCurrentGsmOperator", [.fldUsgo]), ("transmissionReason", [.fldTrsn]),
    ("unitsModeOfOperation", [.fldMode]), ("unitsInputOutputStatus", [.fldIo1, .fldIo2, .fldIo3, .fldIo4]),
    ("analogInputs", [.fldAn1, .fldAn2, .fldAn3, .fldAn4]), ("mileageCounter", [.fldMile])] ++
  [("multiPurposeField", [.fldMpf]), ("lastGpsFix", [.fldLgf]), ("locationStatus", [.fldLocs]), ("mode1", [.fldMod1]),
    ("mode2", [.fldMod2]), ("longitudeAndLatitude", [.fldLonr, .fldLatr, .londd, .latdd, .londms, .latdms]),
    ("altitude", [.fldAlt]), ("groundSpeed", [.fldGspd]), ("speedDirection", [.fldSdir]),
    ("UTC seconds", [.fldUsec]), ("UTC minutes", [.fldUmin]), ("UTC hours", [.fldUhr]), ("UTC day", [.fldUday]),
    ("UTC month", [.fldUmon]), ("UTC year", [.fldUyear]), ("errorDetectionCode", [.fldCkb, .edc])]

/-- The word for a byte order (R62). -/
def orderWord (o : ByteOrder) : String :=
  match o with
  | .be => "BE"
  | .le => "LE"

/-- The word for a counting direction (R62). -/
def dirWord (d : BitDir) : String :=
  match d with
  | .lsb => "LSB"
  | .msb => "MSB"

/-- A number operand in decimal (R62). -/
def numberOperand (n : Nat) : String :=
  String.ofList (decNumeral n)

/-- The assembler form of a command: its mnemonic in capitals and its operands in the order of the format's fields
(R62). -/
def assembler (i : Instr) : String × List String :=
  match i with
  | .clr => ("CLR", [])
  | .push ch => ("PUSH", [numberOperand ch.toNat])
  | .commit => ("COMMIT", [])
  | .stat => ("STAT", [])
  | .getb off cnt => ("GETB", [numberOperand off, numberOperand cnt])
  | .getr off cnt => ("GETR", [numberOperand off, numberOperand cnt])
  | .bfx off cnt4 rev dir pos wid =>
    ("BFX", [numberOperand off, numberOperand cnt4, orderWord rev, dirWord dir, numberOperand pos, numberOperand wid])
  | .invb off cnt rev => ("INVB", [numberOperand off, numberOperand cnt, orderWord rev])
  | .csum off cnt => ("CSUM", [numberOperand off, numberOperand cnt])
  | .edc => ("EDC", [])
  | .londd => ("LONDD", [])
  | .latdd => ("LATDD", [])
  | .londms => ("LONDMS", [])
  | .latdms => ("LATDMS", [])
  | .fldSysc => ("FLD", ["SYSC"])
  | .fldMtyp => ("FLD", ["MTYP"])
  | .fldUid => ("FLD", ["UID"])
  | .fldCcf => ("FLD", ["CCF"])
  | .fldMnum => ("FLD", ["MNUM"])
  | .fldHwv => ("FLD", ["HWV"])
  | .fldHwmodel => ("FLD", ["HWMODEL"])
  | .fldHwmodem => ("FLD", ["HWMODEM"])
  | .fldSwv => ("FLD", ["SWV"])
  | .fldPrv => ("FLD", ["PRV"])
  | .fldUsgo => ("FLD", ["USGO"])
  | .fldCgsm => ("FLD", ["CGSM"])
  | .fldTrsd => ("FLD", ["TRSD"])
  | .fldTrsn => ("FLD", ["TRSN"])
  | .fldMode => ("FLD", ["MODE"])
  | .fldIo1 => ("FLD", ["IO1"])
  | .fldIo2 => ("FLD", ["IO2"])
  | .fldIo3 => ("FLD", ["IO3"])
  | .fldIo4 => ("FLD", ["IO4"])
  | .fldIo5 => ("FLD", ["IO5"])
  | .fldAn1 => ("FLD", ["AN1"])
  | .fldAn2 => ("FLD", ["AN2"])
  | .fldAn3 => ("FLD", ["AN3"])
  | .fldAn4 => ("FLD", ["AN4"])
  | .fldMile => ("FLD", ["MILE"])
  | .fldMpf => ("FLD", ["MPF"])
  | .fldLgf => ("FLD", ["LGF"])
  | .fldLgfd => ("FLD", ["LGFD"])
  | .fldLgfh => ("FLD", ["LGFH"])
  | .fldLgfm => ("FLD", ["LGFM"])
  | .fldLocs => ("FLD", ["LOCS"])
  | .fldMod1 => ("FLD", ["MOD1"])
  | .fldMod2 => ("FLD", ["MOD2"])
  | .fldSats => ("FLD", ["SATS"])
  | .fldLonr => ("FLD", ["LONR"])
  | .fldLatr => ("FLD", ["LATR"])
  | .fldAlt => ("FLD", ["ALT"])
  | .fldGspd => ("FLD", ["GSPD"])
  | .fldSdir => ("FLD", ["SDIR"])
  | .fldUsec => ("FLD", ["USEC"])
  | .fldUmin => ("FLD", ["UMIN"])
  | .fldUhr => ("FLD", ["UHR"])
  | .fldUday => ("FLD", ["UDAY"])
  | .fldUmon => ("FLD", ["UMON"])
  | .fldUyear => ("FLD", ["UYEAR"])
  | .fldCkb => ("FLD", ["CKB"])

/-- The assembler line of a command, operands separated by commas (R62). -/
def assemblerLine (i : Instr) : String :=
  match assembler i with
  | (m, []) => m
  | (m, ops) => m ++ " " ++ String.intercalate ", " ops

end Sys2Proof.Machine
end

