-- ==== Sys2Proof/Safety.lean ====
section
/-! DEFINITION. The terms in which claims about the TFD are stated: which commands are accessor commands, when a range
can be read, the state a command leaves when it finishes `OK` or with a status code, the reserved words, the life-cycle
phases and the invariant of reachable states. -/

namespace Sys2Proof.Machine

/-- "Accessor command" means every command except `CLR`, `PUSH`, `COMMIT` and `STAT` (60_exceptions.md R200). -/
def isAccessor (i : Instr) : Bool :=
  match i with
  | .clr | .push _ | .commit | .stat => false
  | .getb _ _ | .getr _ _ | .bfx _ _ _ _ _ _ | .invb _ _ _ | .csum _ _ | .edc => true
  | .londd | .latdd | .londms | .latdms => true
  | .fldSysc | .fldMtyp | .fldUid | .fldCcf | .fldMnum | .fldHwv | .fldHwmodel | .fldHwmodem
  | .fldSwv | .fldPrv | .fldUsgo | .fldCgsm | .fldTrsd | .fldTrsn | .fldMode | .fldIo1
  | .fldIo2 | .fldIo3 | .fldIo4 | .fldIo5 | .fldAn1 | .fldAn2 | .fldAn3 | .fldAn4
  | .fldMile | .fldMpf | .fldLgf | .fldLgfd | .fldLgfh | .fldLgfm | .fldLocs | .fldMod1
  | .fldMod2 | .fldSats | .fldLonr | .fldLatr | .fldAlt | .fldGspd | .fldSdir | .fldUsec
  | .fldUmin | .fldUhr | .fldUday | .fldUmon | .fldUyear | .fldCkb => true

/-- Byte `a` of the frame as a number. -/
def byteAt (s : State) (a : Nat) : Nat :=
  (Memory.read s.frame a).toNat

/-- The `n` bytes of the frame from offset `a`, on-wire order. -/
def bytesAt (s : State) (a n : Nat) : List Byte :=
  (List.range' a n).map (Memory.read s.frame)

/-- The number of four bytes from offset `a`, the first the least significant (20_memory.md R34). -/
def number4 (s : State) (a : Nat) : Nat :=
  byteAt s a + byteAt s (a + 1) * 256 + byteAt s (a + 2) * 256 ^ 2 + byteAt s (a + 3) * 256 ^ 3

/-- No byte among `a, ..., a + n - 1` is marked `BAD`. -/
abbrev readable (s : State) (a n : Nat) : Prop :=
  ∀ k, k < n → s.bad.getLsbD (a + k) = false

/-- Byte `a + k` is the lowest byte marked `BAD` among `a, ..., a + n - 1`. -/
abbrev firstMarked (s : State) (a n k : Nat) : Prop :=
  k < n ∧ s.bad.getLsbD (a + k) = true ∧ ∀ j, j < k → s.bad.getLsbD (a + j) = false

/-- `s` after a command that finishes `OK` with these four results and changes nothing else of `s`. -/
def okWith (s : State) (v0 v1 v2 v3 : Word64) : State :=
  { s with r := ⟨v0, v1, v2, v3⟩, err := 0, rspValid := true }

/-- `s` after a command that finishes with the nonzero status `code` and `R[0] = info` (60_exceptions.md R201). -/
def faultWith (s : State) (code : Nat) (info : Nat) : State :=
  { s with
    r := ⟨BitVec.ofNat 64 info, 0, 0, 0⟩
    err := BitVec.ofNat 4 code
    eflags := s.eflags ||| BitVec.twoPow 8 code
    rspValid := true }

/-- The faults shared by the range reads of 1 to 8 bytes (41_accessor.md R91): `NotConstructed`, the count check, the
end of the frame, the lowest marked byte, in this order. -/
def rangeFaults (i : Instr) (s : State) (off cnt : Nat) : Prop :=
  (s.valid = false → exec i s = .next (faultWith s 2 0)) ∧
  (s.valid = true → cnt = 0 ∨ 8 < cnt → exec i s = .next (faultWith s 6 cnt)) ∧
  (s.valid = true → 1 ≤ cnt → cnt ≤ 8 → 70 < off + cnt → exec i s = .next (faultWith s 6 (off + cnt))) ∧
  (∀ k, s.valid = true → 1 ≤ cnt → cnt ≤ 8 → off + cnt ≤ 70 → firstMarked s off cnt k →
    exec i s = .next (faultWith s 7 (off + k)))

/-- What a command that reads one field does (44_fields_header.md R130), `run` being its effect: when a frame is
committed and no byte of its field is marked it finishes `OK` with the results `res`; else `NotConstructed`, or
`DecodeError` at the lowest marked byte. -/
def runsField (run : State → Host.Outcome State Fault Refusal) (fo fn : Nat) (res : State → Results) : Prop :=
  (∀ s : State, s.valid = true → readable s fo fn →
    run s = .next (okWith s (res s).r0 (res s).r1 (res s).r2 (res s).r3)) ∧
  (∀ s : State, s.valid = false → run s = .next (faultWith s 2 0)) ∧
  (∀ (s : State) (k : Nat), s.valid = true → firstMarked s fo fn k → run s = .next (faultWith s 7 (fo + k)))

/-- What a rule of an `FLD` selector, or of a command without operands that reads one field, says of the machine: its
word decodes to it, and it reads its field (`runsField`). -/
def readsField (i : Instr) (word : Nat) (fo fn : Nat) (res : State → Results) : Prop :=
  decode (BitVec.ofNat 32 word) = .ok i ∧ runsField (exec i) fo fn res

/-- `readsField` for a selector that returns one number in `R[0]` and 0 elsewhere. -/
def readsNumber (i : Instr) (word : Nat) (fo fn : Nat) (value : State → Nat) : Prop :=
  readsField i word fo fn fun s => ⟨BitVec.ofNat 64 (value s), 0, 0, 0⟩

/-- The opcodes of format Z (30_encoding.md R51, R57). -/
def opcodesZ : List Nat := [0x01, 0x03, 0x04, 0x11, 0x18, 0x19, 0x1A, 0x1B]

/-- The reserved opcodes of 30_encoding.md R61 (a). -/
def reservedOpcode (opc : Nat) : Prop :=
  opc = 0 ∨ (0x05 ≤ opc ∧ opc ≤ 0x07) ∨ opc = 0x09 ∨ (0x0C ≤ opc ∧ opc ≤ 0x0F) ∨
    (0x12 ≤ opc ∧ opc ≤ 0x17) ∨ (0x1C ≤ opc ∧ opc ≤ 0x1F) ∨ (0x21 ≤ opc ∧ opc ≤ 0x3F)

/-- The reserved encodings of 30_encoding.md R61 (a) to (d). -/
def reservedWord (w : CmdWord) : Prop :=
  let opc := w.toNat / 2 ^ 26
  reservedOpcode opc ∨
  (opc ∈ opcodesZ ∧ w.toNat % 2 ^ 26 ≠ 0) ∨
  ((opc = 0x02 ∨ opc = 0x20) ∧ w.toNat / 2 ^ 8 % 2 ^ 18 ≠ 0) ∨
  ((opc = 0x08 ∨ opc = 0x0B ∨ opc = 0x10) ∧ w.toNat % 2 ^ 11 ≠ 0) ∨
  (opc = 0x0A ∧ w.toNat % 2 ≠ 0) ∨
  (opc = 0x10 ∧ w.toNat / 2 ^ 11 % 2 = 1) ∨
  (opc = 0x20 ∧ 0x2E ≤ w.toNat % 2 ^ 8)

/-- The phases of one frame's life (40_frame_control.md R75). -/
inductive Phase where
  /-- `CNT = 0`, `VALID = 0`. -/
  | cleared
  /-- `0 < CNT`, `VALID = 0`. -/
  | loading
  /-- `VALID = 1`. -/
  | committed
  deriving DecidableEq, Repr

/-- The phase of a state (R75). -/
def phase (s : State) : Phase :=
  if s.valid then .committed else if s.cnt = 0 then .cleared else .loading

/-- The invariant of reachable states: 10_state.md R21 (a) to (e), with the canonical form of the frame's memory and
the range of `ERR` (R15: codes 8 to 15 are never produced, 60_exceptions.md R200). -/
def stateInv (s : State) : Prop :=
  Memory.wf s.frame = true ∧
  s.cnt.toNat ≤ 141 ∧
  (s.valid = true → s.cnt.toNat = 140) ∧
  (∀ a, a < 70 → (min s.cnt.toNat 140 + 1) / 2 ≤ a → byteAt s a = 0 ∧ s.bad.getLsbD a = false) ∧
  (s.cnt.toNat % 2 = 1 → s.cnt.toNat < 140 → byteAt s ((s.cnt.toNat - 1) / 2) % 16 = 0) ∧
  s.eflags.getLsbD 0 = false ∧
  s.err.toNat ≤ 7

/-- No fault has been recorded since the frame was started: one test of `EFLAGS` (10_state.md R16). -/
def noFaultRecorded (s : State) : Bool :=
  decide (s.eflags = 0)

end Sys2Proof.Machine
end

