-- ==== Sys2Proof/Certificates/Slice0/Obligations.lean ====
section
/-! DEFINITION. The statements for the provers, one `def Obligations.<Name> : Prop` each, from the numbered rules of
spec/. `okWith s v0 v1 v2 v3` and `faultWith s code info` (Sys2Proof/Safety.lean) name the WHOLE next state, so an equation
with one of them is also the frame of its command: nothing else of the state changes. -/

open Sys2Proof Sys2Proof.Machine

/-! ## Encoding -/

/-- Decode and encode agree (30_encoding.md R50 to R60), for every command and every operand its fields admit. -/
def Obligations.DecodeOfEncode : Prop :=
  ∀ i : Instr, i.wellFormed = true → decode (encode i) = .ok i

/-- Each legal word spells one command: what the decoder accepts is well formed and encodes back to the word. -/
def Obligations.EncodeOfDecode : Prop :=
  ∀ (w : CmdWord) (i : Instr), decode w = .ok i → i.wellFormed = true ∧ encode i = w

/-- The decoder rejects exactly the reserved encodings of R61, the all-zero and the all-ones word among them. -/
def Obligations.ReservedWordsRejected : Prop :=
  (∀ w : CmdWord, (∃ e, decode w = .error e) ↔ reservedWord w) ∧
  reservedWord 0x00000000 ∧ reservedWord 0xFFFFFFFF

/-- A few words written out from the spec's encoding tables decode to the commands they stand for
(95_test_vectors.md V1, V3, V20, V21, V33, V52, V60, V70, V82, V102, V122). -/
def Obligations.SampleWordsDecode : Prop :=
  decode 0x10000000 = .ok .stat ∧ decode 0x08000034 = .ok (.push 0x34) ∧
  decode 0x20004000 = .ok (.getb 0 4) ∧ decode 0x20284800 = .ok (.getr 5 4) ∧
  decode 0x2931600A = .ok (.bfx 38 2 .le .msb 0 5) ∧ decode 0x2D604800 = .ok (.invb 44 4 .le) ∧
  decode 0x40241000 = .ok (.csum 4 65) ∧ decode 0x44000000 = .ok .edc ∧
  decode 0x60000000 = .ok .londd ∧ decode 0x6C000000 = .ok .latdms ∧ decode 0x80000002 = .ok .fldUid

/-! ## Reset, steps and the invariant -/

/-- What reset leaves (10_state.md R20): every piece of state is 0; the state after reset is the state after `CLR` (but for
the port's strobe and the host's events); a `COMMIT` now raises `ConstructionEmpty`, an accessor `NotConstructed`. -/
def Obligations.ResetLeavesZero : Prop :=
  (∀ a, a < 70 → byteAt State.reset a = 0 ∧ State.reset.bad.getLsbD a = false) ∧
  State.reset.cnt = 0 ∧ State.reset.valid = false ∧ State.reset.r = ⟨0, 0, 0, 0⟩ ∧
  State.reset.err = 0 ∧ State.reset.eflags = 0 ∧
  (∀ s : State, exec .clr s = .next { State.reset with rspValid := true, inbox := s.inbox }) ∧
  exec .commit State.reset = .next (faultWith State.reset 3 0) ∧
  (∀ i : Instr, isAccessor i = true → exec i State.reset = .next (faultWith State.reset 2 0))

/-- Steps without a finished command: `rst`, with or without a command in progress, gives the reset state and no response
(70_reset_and_hazards.md R230; the host's further events stay presented, the model's choice of log 2); with nothing
presented, only the response strobe falls (60_exceptions.md R210). -/
def Obligations.StepsWithoutCommand : Prop :=
  ∀ (s : State) (w : CmdWord) (rest : List PortEvent),
    (s.inbox = .reset :: rest → step s = .next { State.reset with inbox := rest }) ∧
    (s.inbox = .resetDuring w :: rest → step s = .next { State.reset with inbox := rest }) ∧
    (s.inbox = [] → step s = .next { s with rspValid := false })

/-- A step runs the decoded instruction: when the presented word decodes to `i`, the step is `exec i` on the state with
that word taken from the port. The port's event queue is the model's (log 1). -/
def Obligations.StepRunsDecoded : Prop :=
  ∀ (s : State) (w : CmdWord) (rest : List PortEvent) (i : Instr),
    s.inbox = .command w :: rest → decode w = .ok i → step s = exec i { s with inbox := rest }

/-- The word `withFetchWord` presents is the one the next step runs. -/
def Obligations.PresentedWordRuns : Prop :=
  ∀ (s : State) (i : Instr), i.wellFormed = true →
    step (s.withFetchWord 32 (encode i).toNat) = exec i s

/-- A reserved word raises `IllegalCommand` in every state, `R[0]` the word zero-extended, before any state is looked at
(60_exceptions.md R202). -/
def Obligations.ReservedWordFaults : Prop :=
  ∀ (s : State) (w : CmdWord) (rest : List PortEvent),
    s.inbox = .command w :: rest → reservedWord w →
    step s = .next (faultWith { s with inbox := rest } 1 w.toNat)

/-- Every command is total: a step always answers a next state (93_implementation_defined.md section 2). -/
def Obligations.StepNeverStops : Prop :=
  ∀ s : State, ∃ t : State, step s = .next t

/-- One response per command that is accepted and runs to its end, in order (00_scope.md R5, R7); none in a step without
one: an idle step, `rst`, and `rst` during an accepted command, which is dropped without a response
(70_reset_and_hazards.md R230). That the host's further events stay presented is the model's choice (logs 1, 2), and so is
the strobe's reading per step (log 3). -/
def Obligations.OneResponsePerCommand : Prop :=
  ∀ (s t : State), step s = .next t →
    (∀ (w : CmdWord) (rest : List PortEvent), s.inbox = .command w :: rest →
      t.rspValid = true ∧ t.inbox = rest) ∧
    ((∀ (w : CmdWord) (rest : List PortEvent), s.inbox ≠ .command w :: rest) →
      t.rspValid = false ∧ t.inbox = s.inbox.tail)

/-- The invariant of reachable states holds at reset. -/
def Obligations.ResetMeetsInvariant : Prop :=
  stateInv State.reset

/-- Every step keeps the invariant of reachable states: 10_state.md R21 (a) to (e), the canonical form of memory, and the
range of `ERR`. -/
def Obligations.StepKeepsInvariant : Prop :=
  ∀ s t : State, stateInv s → step s = .next t → stateInv t

/-! ## Status codes and faults -/

/-- A command that finishes with a nonzero status changes `R`, `ERR` and `EFLAGS` only, and of `R` it leaves `R[1..3]` at 0
(60_exceptions.md R201, R212). -/
def Obligations.FaultsArePrecise : Prop :=
  ∀ (i : Instr) (s t : State), exec i s = .next t → t.err ≠ 0 →
    1 ≤ t.err.toNat ∧ t.err.toNat ≤ 7 ∧ t = faultWith s t.err.toNat t.r.r0.toNat

/-- `EFLAGS` is sticky (10_state.md R16): a command that faults sets the bit of its status code, and no other command but
`CLR` changes any bit. -/
def Obligations.EflagsSticky : Prop :=
  ∀ (i : Instr) (s t : State), exec i s = .next t → i ≠ .clr →
    (t.err = 0 → t.eflags = s.eflags) ∧
    (t.err ≠ 0 → ∀ k, k < 8 → t.eflags.getLsbD k = (s.eflags.getLsbD k || decide (k = t.err.toNat)))

/-- Every accessor command raises `NotConstructed` while `VALID = 0` (60_exceptions.md R203). -/
def Obligations.AccessorsNeedAFrame : Prop :=
  ∀ (i : Instr) (s : State), isAccessor i = true → s.valid = false → exec i s = .next (faultWith s 2 0)

/-- An accessor command changes no frame state, whatever its status: the frame's bytes, `BAD`, `CNT` and `VALID` stay, and so
do the host's events (20_memory.md R40, 40_frame_control.md R75). -/
def Obligations.AccessorsChangeNoFrameState : Prop :=
  ∀ (i : Instr) (s t : State), isAccessor i = true → exec i s = .next t →
    (∀ a, Memory.read t.frame a = Memory.read s.frame a) ∧ t.frame = s.frame ∧
    t.bad = s.bad ∧ t.cnt = s.cnt ∧ t.valid = s.valid ∧ t.inbox = s.inbox

/-- The response of an accessor command depends on the frame, its `BAD` flags and `VALID` alone: no result register, status,
sticky flag or counter carries a value into it (10_state.md R14, R16). -/
def Obligations.AccessorsSeeOnlyTheFrame : Prop :=
  ∀ (i : Instr) (s s' t t' : State), isAccessor i = true →
    s.frame = s'.frame → s.bad = s'.bad → s.valid = s'.valid →
    exec i s = .next t → exec i s' = .next t' → t.r = t'.r ∧ t.err = t'.err

/-- Accessor commands commute and may be repeated: after any sequence of accessor commands, an accessor command gives the
same response as at once (20_memory.md R42, R40). -/
def Obligations.AccessorsCommute : Prop :=
  ∀ (is : List Instr) (i : Instr) (s u t t' : State), (∀ j ∈ is, isAccessor j = true) → isAccessor i = true →
    execAll is s = .next u → exec i u = .next t → exec i s = .next t' → t.r = t'.r ∧ t.err = t'.err

/-- While `VALID` is 1 the frame cannot change until `CLR` or reset (10_state.md R10): a step that takes any other command
word, or none, leaves it. -/
def Obligations.CommittedFrameIsImmutable : Prop :=
  ∀ s t : State, s.valid = true → step s = .next t →
    (∀ rest, s.inbox ≠ .reset :: rest) → (∀ w rest, s.inbox ≠ .resetDuring w :: rest) →
    (∀ rest, s.inbox ≠ .command 0x04000000 :: rest) →
    (∀ a, Memory.read t.frame a = Memory.read s.frame a) ∧ t.bad = s.bad ∧ t.cnt = s.cnt ∧ t.valid = true

/-- The life of one frame (40_frame_control.md R75), for states of the invariant: `PUSH` moves from cleared to loading and
within loading; a successful `COMMIT` from loading with `CNT = 140` to committed; `CLR` from anywhere to cleared; no other
command moves. -/
def Obligations.LifeCycle : Prop :=
  ∀ (i : Instr) (s t : State), stateInv s → exec i s = .next t →
    (i = .clr → phase t = .cleared) ∧
    (∀ ch, i = .push ch → (phase s = .committed → phase t = .committed) ∧ (phase s ≠ .committed → phase t = .loading)) ∧
    (i = .commit → (phase s = .loading → s.cnt.toNat = 140 → phase t = .committed) ∧
      (¬(phase s = .loading ∧ s.cnt.toNat = 140) → phase t = phase s)) ∧
    ((i = .stat ∨ isAccessor i = true) → phase t = phase s) ∧
    (isAccessor i = true → t.err = 0 → phase s = .committed)

/-! ## Frame control -/

/-- The hexadecimal digit values of the 8-bit character port (20_memory.md R33). -/
def Obligations.HexDigitValues : Prop :=
  ∀ c : Byte, hexDigit c =
    if 0x30 ≤ c.toNat ∧ c.toNat ≤ 0x39 then some (c.toNat - 0x30)
    else if 0x41 ≤ c.toNat ∧ c.toNat ≤ 0x46 then some (c.toNat - 55)
    else if 0x61 ≤ c.toNat ∧ c.toNat ≤ 0x66 then some (c.toNat - 87)
    else none

/-- `CLR` (40_frame_control.md R71): every byte and flag 0, `CNT`, `VALID`, `EFLAGS`, `R` 0, `OK` in every state; `CLR`
then `STAT` gives `R = (0, 0, 0, 70)`. -/
def Obligations.ClrClearsFrame : Prop :=
  decode 0x04000000 = .ok .clr ∧
  ∀ s : State, ∃ t : State, exec .clr s = .next t ∧
    (∀ a, Memory.read t.frame a = 0) ∧ t.bad = 0 ∧ t.cnt = 0 ∧ t.valid = false ∧ t.eflags = 0 ∧
    t.r = ⟨0, 0, 0, 0⟩ ∧ t.err = 0 ∧ t.inbox = s.inbox ∧ exec .stat t = .next (okWith t 0 0 0 70)

/-- `PUSH ch` (40_frame_control.md R72): `FrameLocked` on a committed frame; beyond 140 characters the character is
dropped and `CNT` is 141; else one nibble is stored, the high one first with the low nibble 0, a character that is not a
hexadecimal digit marks its byte and stores 0, every other byte and flag stays, and `CNT` counts one more. -/
def Obligations.PushAppendsCharacter : Prop :=
  (∀ ch : Byte, decode (BitVec.ofNat 32 (0x08000000 + ch.toNat)) = .ok (.push ch)) ∧
  ∀ (ch : Byte) (s : State),
    (s.valid = true → exec (.push ch) s = .next (faultWith s 5 0)) ∧
    (s.valid = false → 140 ≤ s.cnt.toNat →
      exec (.push ch) s = .next (okWith { s with cnt := 141 } 141 0 0 0)) ∧
    (s.valid = false → s.cnt.toNat < 140 → ∃ (m : Memory) (b : BitVec 70),
      exec (.push ch) s =
        .next (okWith { s with frame := m, bad := b, cnt := s.cnt + 1 } (BitVec.ofNat 64 (s.cnt.toNat + 1)) 0 0 0) ∧
      (∀ a, a ≠ s.cnt.toNat / 2 → Memory.read m a = Memory.read s.frame a) ∧
      (Memory.wf s.frame = true → s.cnt.toNat % 2 = 0 →
        (Memory.read m (s.cnt.toNat / 2)).toNat = (hexDigit ch).getD 0 * 16) ∧
      (Memory.wf s.frame = true → s.cnt.toNat % 2 = 1 →
        (Memory.read m (s.cnt.toNat / 2)).toNat =
          byteAt s (s.cnt.toNat / 2) / 16 * 16 + (hexDigit ch).getD 0) ∧
      (∀ a, a < 70 → b.getLsbD a =
        (s.bad.getLsbD a || (decide (a = s.cnt.toNat / 2) && decide (hexDigit ch = none)))))

/-- `COMMIT` (40_frame_control.md R73): `FrameLocked`, `ConstructionEmpty`, `ConstructionLength` with `R[0] = CNT`, or with
140 characters `VALID <- 1` and `R[0] = 140`, whatever the `BAD` flags. -/
def Obligations.CommitChecksLength : Prop :=
  decode 0x0C000000 = .ok .commit ∧
  ∀ s : State,
    (s.valid = true → exec .commit s = .next (faultWith s 5 0)) ∧
    (s.valid = false → s.cnt = 0 → exec .commit s = .next (faultWith s 3 0)) ∧
    (s.valid = false → s.cnt ≠ 0 → s.cnt ≠ 140 → exec .commit s = .next (faultWith s 4 s.cnt.toNat)) ∧
    (s.valid = false → s.cnt = 140 → exec .commit s = .next (okWith { s with valid := true } 140 0 0 0))

/-- `STAT` (40_frame_control.md R74, 10_state.md R19): `CNT`, `VALID`, `EFLAGS`, and the least marked offset or 70. -/
def Obligations.StatReportsControl : Prop :=
  decode 0x10000000 = .ok .stat ∧
  ∀ s : State, ∃ f : Nat, f ≤ 70 ∧ (∀ a, a < f → s.bad.getLsbD a = false) ∧
    (f < 70 → s.bad.getLsbD f = true) ∧
    exec .stat s = .next (okWith s (BitVec.ofNat 64 s.cnt.toNat) (if s.valid then 1 else 0)
      (BitVec.ofNat 64 s.eflags.toNat) (BitVec.ofNat 64 f))

/-- `LOADHEX` (30_encoding.md R63) of 140 characters, from any state, ends committed with `R[0] = 140` and no sticky flag:
byte `a` holds characters `2a` and `2a + 1`, first character in the high nibble (20_memory.md R32), and is marked exactly
when one of the two is not a hexadecimal digit (10_state.md R11). -/
def Obligations.LoadHexLoadsFrame : Prop :=
  ∀ (chars : List Byte) (s : State), chars.length = 140 → ∃ t : State,
    execAll (loadHex chars) s = .next t ∧ t.valid = true ∧ t.cnt = 140 ∧ t.r = ⟨140, 0, 0, 0⟩ ∧ t.err = 0 ∧
    t.eflags = 0 ∧
    ∀ a, a < 70 → ∃ c d : Byte, chars[2 * a]? = some c ∧ chars[2 * a + 1]? = some d ∧
      byteAt t a = (hexDigit c).getD 0 * 16 + (hexDigit d).getD 0 ∧
      t.bad.getLsbD a = decide (hexDigit c = none ∨ hexDigit d = none)

/-- `LOADHEX` of any other number of characters ends with `ConstructionEmpty` or `ConstructionLength` and no committed frame
(60_exceptions.md R204): `R[0]` is the count, 141 for every length above 140. -/
def Obligations.LoadHexRejectsWrongLength : Prop :=
  ∀ (chars : List Byte) (s : State), chars.length ≠ 140 → ∃ t : State,
    execAll (loadHex chars) s = .next t ∧ t.valid = false ∧
    t.cnt.toNat = min chars.length 141 ∧ t.r = ⟨BitVec.ofNat 64 (min chars.length 141), 0, 0, 0⟩ ∧
    t.err = if chars.length = 0 then 3 else 4

/-! ## Memory and operand forms -/

/-- `MemRead(a, n)` (20_memory.md R31): the bound, then the lowest marked byte, then the bytes in on-wire order. -/
def Obligations.MemReadRule : Prop :=
  ∀ (s : State) (a n : Nat),
    (70 < a + n → memRead s a n = .error ⟨.rangeError, BitVec.ofNat 64 (a + n)⟩) ∧
    (∀ k, a + n ≤ 70 → firstMarked s a n k → memRead s a n = .error ⟨.decodeError, BitVec.ofNat 64 (a + k)⟩) ∧
    (a + n ≤ 70 → readable s a n → memRead s a n = .ok (bytesAt s a n))

/-- Byte order (20_memory.md R34): `be` weighs the first byte highest, `le` lowest, and each is the other of the reversed
sequence. -/
def Obligations.ByteOrderValues : Prop :=
  ∀ bs : List Byte,
    be bs = ∑ k : Fin bs.length, (bs[k]).toNat * 256 ^ (bs.length - 1 - k) ∧
    le bs = ∑ k : Fin bs.length, (bs[k]).toNat * 256 ^ (k : Nat) ∧
    be bs.reverse = le bs

/-- Bit groups (41_accessor.md R90, 20_memory.md R36): bit `j` of the group is bit `lo + j` of the field, with `lo` counted
from either end, and the group has no other bits. -/
def Obligations.BitGroupBits : Prop :=
  ∀ (v w pos wid j : Nat), 1 ≤ wid → pos + wid ≤ w →
    (bitfield v w .lsb pos wid).testBit j = (decide (j < wid) && v.testBit (pos + j)) ∧
    (bitfield v w .msb pos wid).testBit j = (decide (j < wid) && v.testBit (w - pos - wid + j))

/-- `rnd_div(n, d)` (00_scope.md R8) is the integer nearest to `n / d`, ties away from zero. -/
def Obligations.RndDivNearest : Prop :=
  ∀ (n : Int) (d : Nat), 0 < d →
    rndDiv n d = n.sign * ((2 * |n| + d) / (2 * d)) ∧
    2 * |n - d * rndDiv n d| ≤ d ∧ (2 * |n - d * rndDiv n d| = d → |n| < |d * rndDiv n d|)

/-- `scale_fx(raw, S, O, F)` (00_scope.md R9) is `raw * S + O` in units of `10^-F`, rounded to the nearest integer, ties
away from zero. -/
def Obligations.ScaleFxRoundsOnce : Prop :=
  ∀ (raw : Nat) (scale offset : Ratio) (frac : Nat),
    scaleFx raw scale offset frac =
      rndDiv ((raw * scale.num * offset.den + offset.num * scale.den) * 10 ^ frac) (scale.den * offset.den) ∧
    let exact : ℚ := ((raw : ℚ) * (scale.num / scale.den) + offset.num / offset.den) * 10 ^ frac
    |exact - scaleFx raw scale offset frac| ≤ 1 / 2 ∧
    (|exact - scaleFx raw scale offset frac| = 1 / 2 → |exact| < |(scaleFx raw scale offset frac : ℚ)|)

/-! ## Byte and bit accessor -/

/-- `GETB off, cnt` (41_accessor.md R91): the bytes in string order, zero-extended, and the width in bits. -/
def Obligations.GetbReadsStringOrder : Prop :=
  ∀ off cnt : Nat,
    (off < 128 → cnt < 128 →
      decode (BitVec.ofNat 32 (0x20000000 + off * 2 ^ 19 + cnt * 2 ^ 12)) = .ok (.getb off cnt)) ∧
    ∀ s : State,
      (s.valid = true → 1 ≤ cnt → cnt ≤ 8 → off + cnt ≤ 70 → readable s off cnt →
        exec (.getb off cnt) s =
          .next (okWith s (BitVec.ofNat 64 (be (bytesAt s off cnt))) (BitVec.ofNat 64 (8 * cnt)) 0 0)) ∧
      rangeFaults (.getb off cnt) s off cnt

/-- `GETR off, cnt` (41_accessor.md R92): the bytes in reversed order; with one byte the same as `GETB`. -/
def Obligations.GetrReadsReversedOrder : Prop :=
  ∀ off cnt : Nat,
    (off < 128 → cnt < 128 →
      decode (BitVec.ofNat 32 (0x20000800 + off * 2 ^ 19 + cnt * 2 ^ 12)) = .ok (.getr off cnt)) ∧
    ∀ s : State,
      (s.valid = true → 1 ≤ cnt → cnt ≤ 8 → off + cnt ≤ 70 → readable s off cnt →
        exec (.getr off cnt) s =
          .next (okWith s (BitVec.ofNat 64 (le (bytesAt s off cnt))) (BitVec.ofNat 64 (8 * cnt)) 0 0)) ∧
      rangeFaults (.getr off cnt) s off cnt ∧
      exec (.getr off 1) s = exec (.getb off 1) s

/-- `BFX` (41_accessor.md R93): one bit group of a byte range in either order, counted from either end; the count, the bit
range, the end of the frame and the marked bytes are checked in this order. -/
def Obligations.BfxExtractsGroup : Prop :=
  ∀ (off cnt pos wid : Nat) (rev : ByteOrder) (dir : BitDir),
    (off < 128 → cnt < 16 → pos < 64 → wid < 64 →
      decode (BitVec.ofNat 32 (0x28000000 + off * 2 ^ 19 + cnt * 2 ^ 15 + (if rev = .le then 2 ^ 14 else 0) +
        (if dir = .msb then 2 ^ 13 else 0) + pos * 2 ^ 7 + wid * 2)) = .ok (.bfx off cnt rev dir pos wid)) ∧
    ∀ s : State,
      (s.valid = false → exec (.bfx off cnt rev dir pos wid) s = .next (faultWith s 2 0)) ∧
      (s.valid = true → cnt = 0 ∨ 8 < cnt → exec (.bfx off cnt rev dir pos wid) s = .next (faultWith s 6 cnt)) ∧
      (s.valid = true → 1 ≤ cnt → cnt ≤ 8 →
        (wid = 0 ∨ 8 * cnt < pos + wid →
          exec (.bfx off cnt rev dir pos wid) s = .next (faultWith s 6 (pos + wid))) ∧
        (1 ≤ wid → pos + wid ≤ 8 * cnt →
          (70 < off + cnt → exec (.bfx off cnt rev dir pos wid) s = .next (faultWith s 6 (off + cnt))) ∧
          (∀ k, off + cnt ≤ 70 → firstMarked s off cnt k →
            exec (.bfx off cnt rev dir pos wid) s = .next (faultWith s 7 (off + k))) ∧
          (off + cnt ≤ 70 → readable s off cnt →
            exec (.bfx off cnt rev dir pos wid) s =
              .next (okWith s (BitVec.ofNat 64 (bitfield
                (if rev = .le then le (bytesAt s off cnt) else be (bytesAt s off cnt)) (8 * cnt) dir pos wid))
                (BitVec.ofNat 64 wid) 0 0))))

/-- `INVB off, cnt, rev` (41_accessor.md R94): every one of the `8 * CNT` bits of the range flipped. -/
def Obligations.InvbComplementsRange : Prop :=
  ∀ (off cnt : Nat) (rev : ByteOrder),
    (off < 128 → cnt < 128 →
      decode (BitVec.ofNat 32 (0x2C000000 + off * 2 ^ 19 + cnt * 2 ^ 12 + (if rev = .le then 2 ^ 11 else 0))) =
        .ok (.invb off cnt rev)) ∧
    ∀ s : State,
      (s.valid = true → 1 ≤ cnt → cnt ≤ 8 → off + cnt ≤ 70 → readable s off cnt →
        exec (.invb off cnt rev) s =
          .next (okWith s (BitVec.ofNat 64 (2 ^ (8 * cnt) - 1 -
            (if rev = .le then le (bytesAt s off cnt) else be (bytesAt s off cnt)))) (BitVec.ofNat 64 (8 * cnt)) 0 0)) ∧
      rangeFaults (.invb off cnt rev) s off cnt

/-- The five bit groups the source names (41_accessor.md R95): each selector gives in `R[0]` what its `BFX` form gives. -/
def Obligations.NamedGroupsAreBfxForms : Prop :=
  ∀ g ∈ namedGroups, ∀ s : State, ∃ t u : State,
    exec g.1 s = .next t ∧ exec g.2 s = .next u ∧ t.err = u.err ∧ t.r.r0 = u.r.r0

/-! ## Checksum -/

/-- The checksum engine (42_checksum.md R100, R101): the sum modulo 256; an 8-bit accumulator that wraps gives the same; the
order of the bytes does not matter; the empty sum is 0. -/
def Obligations.ChecksumIsSumMod256 : Prop :=
  (∀ bs : List Byte, checksum bs = (bs.map BitVec.toNat).sum % 256) ∧
  (∀ bs : List Byte, (bs.foldl (fun acc b => acc + b) (0 : Byte)).toNat = checksum bs) ∧
  (∀ bs cs : List Byte, bs.Perm cs → checksum bs = checksum cs) ∧
  checksum [] = 0 ∧ checksum [0xFF, 0x01] = 0 ∧ checksum [0xFF] = 255

/-- `CSUM off, cnt` (42_checksum.md R103): checksum and unreduced sum of any range of the frame, a count of 0 included. -/
def Obligations.CsumSumsRange : Prop :=
  ∀ off cnt : Nat,
    (off < 128 → cnt < 128 →
      decode (BitVec.ofNat 32 (0x40000000 + off * 2 ^ 19 + cnt * 2 ^ 12)) = .ok (.csum off cnt) ∧
      reservedWord (BitVec.ofNat 32 (0x40000800 + off * 2 ^ 19 + cnt * 2 ^ 12))) ∧
    ∀ s : State,
      (s.valid = true → off + cnt ≤ 70 → readable s off cnt →
        exec (.csum off cnt) s = .next (okWith s
          (BitVec.ofNat 64 (((bytesAt s off cnt).map BitVec.toNat).sum % 256))
          (BitVec.ofNat 64 ((bytesAt s off cnt).map BitVec.toNat).sum) 0 0)) ∧
      (s.valid = false → exec (.csum off cnt) s = .next (faultWith s 2 0)) ∧
      (s.valid = true → 70 < off + cnt → exec (.csum off cnt) s = .next (faultWith s 6 (off + cnt))) ∧
      (∀ k, s.valid = true → off + cnt ≤ 70 → firstMarked s off cnt k →
        exec (.csum off cnt) s = .next (faultWith s 7 (off + k)))

/-- `EDC` (42_checksum.md R104): the embedded byte 69 and the checksum of bytes 4 to 68, whether or not they agree; a marked
byte of the range is reported before byte 69. Every instance does the same over bytes `CK_FIRST` to 68, 4 or 3 by its own
parameter (R102). -/
def Obligations.EdcShowsBothChecksums : Prop :=
  decode 0x44000000 = .ok .edc ∧
  ∀ s : State,
    (s.valid = true → readable s 4 65 → readable s 69 1 →
      exec .edc s = .next (okWith s (BitVec.ofNat 64 (byteAt s 69)) (BitVec.ofNat 64 (checksum (bytesAt s 4 65))) 0 0)) ∧
    (s.valid = false → exec .edc s = .next (faultWith s 2 0)) ∧
    (∀ k, s.valid = true → firstMarked s 4 65 k → exec .edc s = .next (faultWith s 7 (4 + k))) ∧
    (s.valid = true → readable s 4 65 → s.bad.getLsbD 69 = true → exec .edc s = .next (faultWith s 7 69)) ∧
    ∀ p : Params,
      let first := if p.ckFirst = .byte3 then 3 else 4
      let count := 69 - first
      (s.valid = true → readable s first count → readable s 69 1 →
        execIn p .edc s =
          .next (okWith s (BitVec.ofNat 64 (byteAt s 69)) (BitVec.ofNat 64 (checksum (bytesAt s first count))) 0 0)) ∧
      (s.valid = false → execIn p .edc s = .next (faultWith s 2 0)) ∧
      (∀ k, s.valid = true → firstMarked s first count k → execIn p .edc s = .next (faultWith s 7 (first + k))) ∧
      (s.valid = true → readable s first count → s.bad.getLsbD 69 = true → execIn p .edc s = .next (faultWith s 7 69))

/-! ## Coordinates -/

/-- The signed integer `n` (43_coordinate.md R111, R112): the two's-complement value when the top nibble is `F`. -/
def Obligations.SignTestOnTopNibble : Prop :=
  ∀ raw : Nat, raw < 2 ^ 32 →
    (raw < 0xF0000000 → coordInt raw = raw) ∧
    (0xF0000000 ≤ raw → coordInt raw = -((2 ^ 32 - 1 - (raw : Int)) + 1) ∧
      coordInt raw = (BitVec.ofNat 32 raw).toInt)

/-- Decimal degrees (43_coordinate.md R117 to R119, R113, R115): `LONDD` scales a non-negative raw longitude by `10^-9` and
everything else by `10^-8`; the results are `DD`, `n`, `e` and the raw field. -/
def Obligations.DecimalDegreesResults : Prop :=
  readsField .londd 0x60000000 44 4 (fun s =>
    let raw := number4 s 44
    let n : Int := if 0xF0000000 ≤ raw then (raw : Int) - 2 ^ 32 else raw
    let e := if 0xF0000000 ≤ raw then 8 else 9
    ⟨BitVec.ofInt 64 (rndDiv (n * Config.params.kDeg.num * 10 ^ 9) (Config.params.kDeg.den * 10 ^ e)),
      BitVec.ofInt 64 n, BitVec.ofNat 64 e, BitVec.ofNat 64 raw⟩) ∧
  readsField .latdd 0x64000000 48 4 (fun s =>
    let raw := number4 s 48
    let n : Int := if 0xF0000000 ≤ raw then (raw : Int) - 2 ^ 32 else raw
    ⟨BitVec.ofInt 64 (rndDiv (n * Config.params.kDeg.num * 10 ^ 9) (Config.params.kDeg.den * 10 ^ 8)),
      BitVec.ofInt 64 n, 8, BitVec.ofNat 64 raw⟩)

/-- The asymmetry of the decimal degrees (43_coordinate.md R116 (a), (b), R113), for every value of the parameters: raw 0 is
0; for longitude the raw fields `2^32 - m` and `m` differ exactly by the factor -10; for latitude the outputs are exact
negatives. -/
def Obligations.LongitudeAsymmetry : Prop :=
  ∀ p : Params,
    (∀ ax, coordDD p ax 0 = 0) ∧
    ∀ m : Nat, 1 ≤ m → m ≤ 2 ^ 28 →
      (coordInt (2 ^ 32 - m) * p.kDeg.num / (p.kDeg.den * 10 ^ coordExp .lon (2 ^ 32 - m)) : ℚ) =
        -10 * (coordInt m * p.kDeg.num / (p.kDeg.den * 10 ^ coordExp .lon m)) ∧
      coordDD p .lat (2 ^ 32 - m) = -coordDD p .lat m

/-- The decomposition and the hemisphere (43_coordinate.md R120 to R122), for every value of the parameters: degrees, minutes
and hundredths of seconds of `|d|`, rounded once and not carried, and the letter's code. For a `K_DEG` so large that the
degrees need more than 64 bits, that `R[0]` holds them modulo 2^64 is the model's reading (log 10). -/
def Obligations.DmsDecomposition : Prop :=
  ∀ (p : Params) (ax : Axis) (raw : Nat),
    let d : ℚ :=
      (if p.dmsInput = .unsignedRaw then (raw : ℚ) else (coordInt raw : ℚ)) * (p.kDeg.num / p.kDeg.den) / 10 ^ 8
    let deg := ⌊|d|⌋
    let mfull : ℚ := (|d| - deg) * 60
    let sfull : ℚ := (mfull - ⌊mfull⌋) * 60
    let hemi : Nat :=
      if ax = .lon then (if 0 < d ∧ d ≤ 180 then 1 else if -180 ≤ d ∧ d < 0 then 2 else 0)
      else if 0 < d ∧ d ≤ 90 then 3 else if -90 ≤ d ∧ d < 0 then 4 else 0
    dmsResults p ax raw =
      ⟨BitVec.ofInt 64 deg, BitVec.ofInt 64 ⌊mfull⌋, BitVec.ofInt 64 ⌊sfull * 100 + 1 / 2⌋, BitVec.ofNat 64 hemi⟩

/-- `LONDMS` and `LATDMS` (43_coordinate.md R123 to R125) at the default `DMS_INPUT`: the parts of the unsigned raw field
times `K_DEG * 10^-8`; codes 2 and 4 are never produced. For a `K_DEG` so large that the degrees need more than 64 bits,
that `R[0]` holds them modulo 2^64 is the model's reading (log 10). -/
def Obligations.DmsResults : Prop :=
  let parts (d : ℚ) (hemi : Nat) : Results :=
    let mfull : ℚ := (d - ⌊d⌋) * 60
    let sfull : ℚ := (mfull - ⌊mfull⌋) * 60
    ⟨BitVec.ofInt 64 ⌊d⌋, BitVec.ofInt 64 ⌊mfull⌋, BitVec.ofInt 64 ⌊sfull * 100 + 1 / 2⌋, BitVec.ofNat 64 hemi⟩
  let kDeg : ℚ := (Config.params.kDeg.num : ℚ) / Config.params.kDeg.den
  readsField .londms 0x68000000 44 4 (fun s =>
    let d : ℚ := number4 s 44 * kDeg / 10 ^ 8
    parts d (if 0 < d ∧ d ≤ 180 then 1 else 0)) ∧
  readsField .latdms 0x6C000000 48 4 (fun s =>
    let d : ℚ := number4 s 48 * kDeg / 10 ^ 8
    parts d (if 0 < d ∧ d ≤ 90 then 3 else 0))

/-! ## Field selectors -/

/-- The selectors of the identity, version, status, reason and mode bytes (44_fields_header.md R131 to R135, R139 to R145). -/
def Obligations.HeaderSelectors : Prop :=
  readsNumber .fldSysc 0x80000000 0 4 (fun s =>
    byteAt s 0 * 2 ^ 24 + byteAt s 1 * 2 ^ 16 + byteAt s 2 * 2 ^ 8 + byteAt s 3) ∧
  readsNumber .fldMtyp 0x80000001 4 1 (fun s => byteAt s 4) ∧
  readsNumber .fldUid 0x80000002 5 4 (fun s => number4 s 5) ∧
  readsNumber .fldCcf 0x80000003 9 2 (fun s => byteAt s 9 * 256 + byteAt s 10) ∧
  readsNumber .fldMnum 0x80000004 11 1 (fun s => byteAt s 11) ∧
  readsNumber .fldSwv 0x80000008 13 1 (fun s => byteAt s 13) ∧
  readsNumber .fldPrv 0x80000009 14 1 (fun s => byteAt s 14) ∧
  readsNumber .fldUsgo 0x8000000A 15 1 (fun s => byteAt s 15) ∧
  readsNumber .fldCgsm 0x8000000B 16 1 (fun s => byteAt s 16) ∧
  readsNumber .fldTrsd 0x8000000C 17 1 (fun s => byteAt s 17) ∧
  readsNumber .fldTrsn 0x8000000D 18 1 (fun s => byteAt s 18) ∧
  readsNumber .fldMode 0x8000000E 19 1 (fun s => byteAt s 19)

/-- The hardware-version byte and its two groups (44_fields_header.md R136 to R138): model id in the low 5 bits, modem code
in the high 3; `OK` for every byte value. -/
def Obligations.HardwareSelectors : Prop :=
  readsField .fldHwv 0x80000005 12 1 (fun s =>
    ⟨BitVec.ofNat 64 (byteAt s 12), BitVec.ofNat 64 (byteAt s 12 % 32), BitVec.ofNat 64 (byteAt s 12 / 32), 0⟩) ∧
  readsNumber .fldHwmodel 0x80000006 12 1 (fun s => byteAt s 12 % 32) ∧
  readsNumber .fldHwmodem 0x80000007 12 1 (fun s => byteAt s 12 / 32)

/-- The I/O status, location status, mode and satellite bytes (44_fields_header.md R146 to R150, 45_fields_position_time.md
R167 to R170). -/
def Obligations.StatusSelectors : Prop :=
  readsNumber .fldIo1 0x8000000F 20 1 (fun s => byteAt s 20) ∧
  readsNumber .fldIo2 0x80000010 21 1 (fun s => byteAt s 21) ∧
  readsNumber .fldIo3 0x80000011 22 1 (fun s => byteAt s 22) ∧
  readsNumber .fldIo4 0x80000012 23 1 (fun s => byteAt s 23) ∧
  readsNumber .fldIo5 0x80000013 24 1 (fun s => byteAt s 24) ∧
  readsNumber .fldLocs 0x8000001E 40 1 (fun s => byteAt s 40) ∧
  readsNumber .fldMod1 0x8000001F 41 1 (fun s => byteAt s 41) ∧
  readsNumber .fldMod2 0x80000020 42 1 (fun s => byteAt s 42) ∧
  readsNumber .fldSats 0x80000021 43 1 (fun s => byteAt s 43)

/-- The analog inputs (44_fields_header.md R151 to R155): raw byte, scaled value, fraction digits, for every value the
parameters may have; exactly one offset is nonzero. For an `AN_FRAC` wider than 64 bits, that `R[2]` holds it modulo 2^64 is
the model's reading (log 10). -/
def Obligations.AnalogSelectors : Prop :=
  let res (an : Analog) (b : Nat) : Results :=
    ⟨BitVec.ofNat 64 b, BitVec.ofInt 64 (scaleFx b an.scale an.offset an.frac), BitVec.ofNat 64 an.frac, 0⟩
  readsField .fldAn1 0x80000014 25 1 (fun s => res Config.params.an1 (byteAt s 25)) ∧
  readsField .fldAn2 0x80000015 26 1 (fun s => res Config.params.an2 (byteAt s 26)) ∧
  readsField .fldAn3 0x80000016 27 1 (fun s => res Config.params.an3 (byteAt s 27)) ∧
  readsField .fldAn4 0x80000017 28 1 (fun s => res Config.params.an4 (byteAt s 28)) ∧
  (Config.params.analogs.filter fun an => decide (an.offset.num ≠ 0)).length = 1

/-- Counters, raw coordinates, time stamp and checksum byte (45_fields_position_time.md R161, R162, R171, R172, R176 to
R182). -/
def Obligations.PositionSelectors : Prop :=
  readsNumber .fldMile 0x80000018 29 3 (fun s => byteAt s 29 + byteAt s 30 * 2 ^ 8 + byteAt s 31 * 2 ^ 16) ∧
  readsNumber .fldMpf 0x80000019 32 6 (fun s => number4 s 32 + byteAt s 36 * 2 ^ 32 + byteAt s 37 * 2 ^ 40) ∧
  readsNumber .fldLonr 0x80000022 44 4 (fun s => number4 s 44) ∧
  readsNumber .fldLatr 0x80000023 48 4 (fun s => number4 s 48) ∧
  readsNumber .fldUsec 0x80000027 62 1 (fun s => byteAt s 62) ∧
  readsNumber .fldUmin 0x80000028 63 1 (fun s => byteAt s 63) ∧
  readsNumber .fldUhr 0x80000029 64 1 (fun s => byteAt s 64) ∧
  readsNumber .fldUday 0x8000002A 65 1 (fun s => byteAt s 65) ∧
  readsNumber .fldUmon 0x8000002B 66 1 (fun s => byteAt s 66) ∧
  readsNumber .fldUyear 0x8000002C 67 2 (fun s => byteAt s 67 + byteAt s 68 * 256) ∧
  readsNumber .fldCkb 0x8000002D 69 1 (fun s => byteAt s 69)

/-- The last GPS fix and its parts (45_fields_position_time.md R163 to R166): day in bits 15:11, hour in 10:6, minute in
5:0 of the reversed 16 bits. -/
def Obligations.LastGpsFixSelectors : Prop :=
  let v (s : State) : Nat := byteAt s 38 + byteAt s 39 * 256
  readsField .fldLgf 0x8000001A 38 2 (fun s =>
    ⟨BitVec.ofNat 64 (v s), BitVec.ofNat 64 (v s / 2 ^ 11), BitVec.ofNat 64 (v s / 2 ^ 6 % 2 ^ 5),
      BitVec.ofNat 64 (v s % 2 ^ 6)⟩) ∧
  readsNumber .fldLgfd 0x8000001B 38 2 (fun s => v s / 2 ^ 11) ∧
  readsNumber .fldLgfh 0x8000001C 38 2 (fun s => v s / 2 ^ 6 % 2 ^ 5) ∧
  readsNumber .fldLgfm 0x8000001D 38 2 (fun s => v s % 2 ^ 6)

/-- The scaled positional fields (45_fields_position_time.md R173 to R175, R183): raw value, scaled value without offset,
fraction digits (3 for the ground speed). For an `ALT_FRAC` or `DIR_FRAC` wider than 64 bits, that `R[2]` holds it modulo
2^64 is the model's reading (log 10). -/
def Obligations.ScaledSelectors : Prop :=
  let res (q : PosRatio) (frac raw : Nat) : Results :=
    ⟨BitVec.ofNat 64 raw, BitVec.ofInt 64 (rndDiv ((raw : Int) * q.num * 10 ^ frac) q.den), BitVec.ofNat 64 frac, 0⟩
  readsField .fldAlt 0x80000024 52 4 (fun s => res Config.params.altScale Config.params.altFrac (number4 s 52)) ∧
  readsField .fldGspd 0x80000025 56 4 (fun s => res Config.params.spdScale 3 (number4 s 56)) ∧
  readsField .fldSdir 0x80000026 60 2 (fun s =>
    res Config.params.dirScale Config.params.dirFrac (byteAt s 60 + byteAt s 61 * 256))

/-- The frame layout (20_memory.md R35): every byte 0 to 69 belongs to exactly one field, the byte counts add to 70, and
each field's selector reads the whole field in its order. -/
def Obligations.LayoutCoversFrame : Prop :=
  (∀ a, a < 70 → (layout.filter fun f => decide (f.off ≤ a ∧ a < f.off + f.bytes)).length = 1) ∧
  (layout.map Field.bytes).sum = 70 ∧
  ∀ f ∈ layout, ∀ s : State, s.valid = true → readable s f.off f.bytes → ∃ t : State,
    exec f.selector s = .next t ∧ t.err = 0 ∧
    t.r.r0 = BitVec.ofNat 64 (if f.order = .le then le (bytesAt s f.off f.bytes) else be (bytesAt s f.off f.bytes))

/-- The all-zero frame: every `FLD` selector returns `R[0] = 0` (44_fields_header.md R130), and every entry a
`FIELD_MAP` may hold is 0 (41_accessor.md R96). -/
def Obligations.ZeroFrameReadsZero : Prop :=
  ∀ s : State, s.valid = true → s.bad = 0 → (∀ a, a < 70 → byteAt s a = 0) →
    (∀ i : Instr, opcode i = 0x20 → ∃ t : State, exec i s = .next t ∧ t.err = 0 ∧ t.r.r0 = 0) ∧
    (∀ e : FieldMapEntry, e.legal = true →
      exec (flagInstr e) s = .next (okWith s 0 (BitVec.ofNat 64 e.wid) 0 0))

/-! ## Text helpers and instances -/

/-- `reverse_byte_order` is an involution on texts of even length, and relates the two byte orders: a hexadecimal string
reads as `be` of its bytes, its reversal as `le`. 41_accessor.md R85 says both of hexadecimal strings; that the involution
holds of other texts of even length too is the model's choice (log 14). -/
def Obligations.ReverseByteOrderLaws : Prop :=
  (∀ h : Text, h.length % 2 = 0 → ∃ g : Text, reverseByteOrder h = some g ∧ g.length = h.length ∧
    reverseByteOrder g = some h) ∧
  ∀ (h : Text) (gs : List (Char × Char)) (bs : List Nat), h ≠ [] → byteGroups h = some gs → groupBytes gs = some bs →
    hexToDecimal h = some (be (bs.map (BitVec.ofNat 8))) ∧
    ∃ g : Text, reverseByteOrder h = some g ∧ hexToDecimal g = some (le (bs.map (BitVec.ofNat 8)))

/-- `invert_bits` and `left_pad` (41_accessor.md R88, R86): the inverted binary string of value `v` and length `W` has value
`2^W - 1 - v`; the padded text has length `max(w, length)` and the original as its suffix. -/
def Obligations.InvertBitsAndLeftPad : Prop :=
  (∀ (b : Text) (v : Nat), binaryToDecimal b = some v → ∃ c : Text, invertBits b = some c ∧ c.length = b.length ∧
    binaryToDecimal c = some (2 ^ b.length - 1 - v)) ∧
  invertBits [] = some [] ∧
  ∀ (v : Text) (w : Nat) (c : Char), (leftPad v w c).length = max w v.length ∧ v <:+ leftPad v w c

/-- `hex_to_decimal` and `decimal_to_hex` (41_accessor.md R81, R82, decision D33): the numeral reads back as the number, and
is the shortest: no leading zero but for "0". -/
def Obligations.HexNumeralRoundTrip : Prop :=
  ∀ n : Nat, hexToDecimal (decimalToHex n) = some n ∧ (n ≠ 0 → (decimalToHex n).head? ≠ some '0') ∧
    decimalToHex 0 = ['0']

/-- Several instances share nothing (20_memory.md R45, 60_exceptions.md R216): a step of one is the step of that one under
its own parameters, which stay, and leaves every other as it was. -/
def Obligations.InstancesShareNothing : Prop :=
  ∀ (instances : List Instance) (k j : Nat),
    (stepInstance k instances).length = instances.length ∧
    (j ≠ k → (stepInstance k instances)[j]? = instances[j]?) ∧
    (∀ (a : Instance) (t : State), instances[k]? = some a → stepIn a.params a.state = .next t →
      (stepInstance k instances)[k]? = some (a.withState t) ∧
      (a.withState t).params = a.params ∧ (a.withState t).state = t)

/-- Each instance has its own parameters (20_memory.md R45, 10_state.md R18). A step of an instance runs the decoded command
under its parameters, and any other step is the same in every instance. Every command that reads a parameter takes it from
the instance's own, with the results and the faults of its rule (`EDC`: see `EdcShowsBothChecksums`; the parts of the DMS form:
see `DmsDecomposition`); every other command does the same in every instance. The machine is the instance with the parameters
`Config.params` (the model's choice of machine, log 19). Results wider than 64 bits are stored modulo 2^64 (log 10). -/
def Obligations.InstanceReadsItsParameters : Prop :=
  (∀ s : State, stepIn Config.params s = step s ∧ ∀ i : Instr, execIn Config.params i s = exec i s) ∧
  (∀ (p : Params) (s : State) (w : CmdWord) (rest : List PortEvent) (i : Instr),
    s.inbox = .command w :: rest → decode w = .ok i → stepIn p s = execIn p i { s with inbox := rest }) ∧
  (∀ (p q : Params) (s : State),
    (∀ (w : CmdWord) (rest : List PortEvent) (i : Instr), s.inbox = .command w :: rest → decode w ≠ .ok i) →
    stepIn p s = stepIn q s) ∧
  (∀ (p q : Params) (i : Instr) (s : State),
    i ∉ [Instr.edc, .londd, .latdd, .londms, .latdms, .fldAn1, .fldAn2, .fldAn3, .fldAn4, .fldAlt, .fldGspd, .fldSdir] →
    execIn p i s = execIn q i s) ∧
  ∀ p : Params,
    let degrees (positiveExp raw : Nat) : Results :=
      let n : Int := if 0xF0000000 ≤ raw then (raw : Int) - 2 ^ 32 else raw
      let e := if 0xF0000000 ≤ raw then 8 else positiveExp
      ⟨BitVec.ofInt 64 (rndDiv (n * p.kDeg.num * 10 ^ p.ddFrac) (p.kDeg.den * 10 ^ e)), BitVec.ofInt 64 n,
        BitVec.ofNat 64 e, BitVec.ofNat 64 raw⟩
    let analog (an : Analog) (b : Nat) : Results :=
      ⟨BitVec.ofNat 64 b, BitVec.ofInt 64 (scaleFx b an.scale an.offset an.frac), BitVec.ofNat 64 an.frac, 0⟩
    let scaled (q : PosRatio) (frac raw : Nat) : Results :=
      ⟨BitVec.ofNat 64 raw, BitVec.ofInt 64 (rndDiv ((raw : Int) * q.num * 10 ^ frac) q.den), BitVec.ofNat 64 frac, 0⟩
    runsField (execIn p .londd) 44 4 (fun s => degrees 9 (number4 s 44)) ∧
    runsField (execIn p .latdd) 48 4 (fun s => degrees 8 (number4 s 48)) ∧
    runsField (execIn p .londms) 44 4 (fun s => dmsResults p .lon (number4 s 44)) ∧
    runsField (execIn p .latdms) 48 4 (fun s => dmsResults p .lat (number4 s 48)) ∧
    runsField (execIn p .fldAn1) 25 1 (fun s => analog p.an1 (byteAt s 25)) ∧
    runsField (execIn p .fldAn2) 26 1 (fun s => analog p.an2 (byteAt s 26)) ∧
    runsField (execIn p .fldAn3) 27 1 (fun s => analog p.an3 (byteAt s 27)) ∧
    runsField (execIn p .fldAn4) 28 1 (fun s => analog p.an4 (byteAt s 28)) ∧
    runsField (execIn p .fldAlt) 52 4 (fun s => scaled p.altScale p.altFrac (number4 s 52)) ∧
    runsField (execIn p .fldGspd) 56 4 (fun s => scaled p.spdScale 3 (number4 s 56)) ∧
    runsField (execIn p .fldSdir) 60 2 (fun s => scaled p.dirScale p.dirFrac (byteAt s 60 + byteAt s 61 * 256))
end

