-- ==== Sys2Proof/Laws/Config.lean ====
section
/-! SUPPORT. What the spec fixes about the parameters holds of the machine's own, whatever the open values are. -/

namespace Sys2Proof

/-- The one nonzero analog offset is nonzero. -/
theorem affineOffset_ne_zero : Config.affineOffset.num ≠ 0 := by
  unfold Config.affineOffset
  split <;> simp <;> omega

/-- The offset of an analog input is nonzero exactly when it is the affine one (44_fields_header.md R155). -/
theorem analog_offset_ne_zero (i : Fin 4) : (Config.analog i).offset.num ≠ 0 ↔ i = Config.affineInput := by
  unfold Config.analog
  by_cases h : i = Config.affineInput
  · simp [h, affineOffset_ne_zero]
  · simp [h, Ratio.zero]

/-- Every entry of the machine's `FIELD_MAP` is legal for `BFX`. -/
theorem fieldMap_legal : Config.params.fieldMap.all FieldMapEntry.legal = true := by
  simp [Config.params]

/-- The machine's own parameters are none that the spec refuses (93_implementation_defined.md section 1). -/
theorem params_legal : Config.params.legal = true := by
  have h : (List.filter (fun a : Analog => decide (a.offset.num ≠ 0))
      [Config.analog 0, Config.analog 1, Config.analog 2, Config.analog 3]).length = 1 := by
    simp only [List.filter_cons, analog_offset_ne_zero]
    generalize Config.affineInput = i
    revert i
    decide
  rw [Params.legal, fieldMap_legal, Bool.and_true, decide_eq_true_eq]
  exact h

end Sys2Proof
end

