-- ==== Sys2Proof/Laws/Decode.lean ====
section
/-! SUPPORT. Reading a field of a word that is given as a number. -/

namespace Sys2Proof

/-- A field of the word of a number (30_encoding.md R56), in arithmetic that `omega` reads. -/
theorem wordField_ofNat (n lo len : Nat) :
    wordField (BitVec.ofNat 32 n) lo len = n % 2 ^ 32 / 2 ^ lo % 2 ^ len := by
  simp [wordField]

set_option maxRecDepth 8000 in
/-- The assigned `FLD` selectors are 0 to 45, and each is the low byte of its command's word (30_encoding.md R60). -/
theorem selectorInstr_assigned : ∀ n, n < 256 → (match selectorInstr n with
    | some i => decide (n < 46 ∧ encodeNat i = 0x80000000 + n ∧ i.wellFormed = true)
    | none => decide (46 ≤ n)) = true := by decide

end Sys2Proof
end

