-- ==== Sys2Proof/Laws/State.lean ====
section
/-! SUPPORT. What each update of the state leaves in each field: one lemma per field per update, true by rfl. -/

namespace Sys2Proof.Machine

/-! ### finish -/

@[simp] theorem finish_frame (s : State) (rs : Results) : (finish s rs).frame = s.frame := rfl
@[simp] theorem finish_bad (s : State) (rs : Results) : (finish s rs).bad = s.bad := rfl
@[simp] theorem finish_cnt (s : State) (rs : Results) : (finish s rs).cnt = s.cnt := rfl
@[simp] theorem finish_valid (s : State) (rs : Results) : (finish s rs).valid = s.valid := rfl
@[simp] theorem finish_r (s : State) (rs : Results) : (finish s rs).r = rs := rfl
@[simp] theorem finish_err (s : State) (rs : Results) : (finish s rs).err = 0 := rfl
@[simp] theorem finish_eflags (s : State) (rs : Results) : (finish s rs).eflags = s.eflags := rfl
@[simp] theorem finish_rspValid (s : State) (rs : Results) : (finish s rs).rspValid = true := rfl
@[simp] theorem finish_inbox (s : State) (rs : Results) : (finish s rs).inbox = s.inbox := rfl

/-! ### raise -/

@[simp] theorem raise_frame (s : State) (e : Raised) : (raise s e).frame = s.frame := rfl
@[simp] theorem raise_bad (s : State) (e : Raised) : (raise s e).bad = s.bad := rfl
@[simp] theorem raise_cnt (s : State) (e : Raised) : (raise s e).cnt = s.cnt := rfl
@[simp] theorem raise_valid (s : State) (e : Raised) : (raise s e).valid = s.valid := rfl
@[simp] theorem raise_r (s : State) (e : Raised) : (raise s e).r = ⟨e.info, 0, 0, 0⟩ := rfl
@[simp] theorem raise_err (s : State) (e : Raised) : (raise s e).err = errCode e.status := rfl
@[simp] theorem raise_eflags (s : State) (e : Raised) : (raise s e).eflags = setSticky s.eflags e.status := rfl
@[simp] theorem raise_rspValid (s : State) (e : Raised) : (raise s e).rspValid = true := rfl
@[simp] theorem raise_inbox (s : State) (e : Raised) : (raise s e).inbox = s.inbox := rfl

/-! ### accept -/

@[simp] theorem accept_frame (s : State) (rest : List PortEvent) : (accept s rest).frame = s.frame := rfl
@[simp] theorem accept_bad (s : State) (rest : List PortEvent) : (accept s rest).bad = s.bad := rfl
@[simp] theorem accept_cnt (s : State) (rest : List PortEvent) : (accept s rest).cnt = s.cnt := rfl
@[simp] theorem accept_valid (s : State) (rest : List PortEvent) : (accept s rest).valid = s.valid := rfl
@[simp] theorem accept_r (s : State) (rest : List PortEvent) : (accept s rest).r = s.r := rfl
@[simp] theorem accept_err (s : State) (rest : List PortEvent) : (accept s rest).err = s.err := rfl
@[simp] theorem accept_eflags (s : State) (rest : List PortEvent) : (accept s rest).eflags = s.eflags := rfl
@[simp] theorem accept_rspValid (s : State) (rest : List PortEvent) : (accept s rest).rspValid = s.rspValid := rfl
@[simp] theorem accept_inbox (s : State) (rest : List PortEvent) : (accept s rest).inbox = rest := rfl

/-! ### idle -/

@[simp] theorem idle_frame (s : State) : (idle s).frame = s.frame := rfl
@[simp] theorem idle_bad (s : State) : (idle s).bad = s.bad := rfl
@[simp] theorem idle_cnt (s : State) : (idle s).cnt = s.cnt := rfl
@[simp] theorem idle_valid (s : State) : (idle s).valid = s.valid := rfl
@[simp] theorem idle_r (s : State) : (idle s).r = s.r := rfl
@[simp] theorem idle_err (s : State) : (idle s).err = s.err := rfl
@[simp] theorem idle_eflags (s : State) : (idle s).eflags = s.eflags := rfl
@[simp] theorem idle_rspValid (s : State) : (idle s).rspValid = false := rfl
@[simp] theorem idle_inbox (s : State) : (idle s).inbox = s.inbox := rfl

/-! ### presentWord -/

@[simp] theorem presentWord_frame (s : State) (w : CmdWord) : (presentWord s w).frame = s.frame := rfl
@[simp] theorem presentWord_bad (s : State) (w : CmdWord) : (presentWord s w).bad = s.bad := rfl
@[simp] theorem presentWord_cnt (s : State) (w : CmdWord) : (presentWord s w).cnt = s.cnt := rfl
@[simp] theorem presentWord_valid (s : State) (w : CmdWord) : (presentWord s w).valid = s.valid := rfl
@[simp] theorem presentWord_r (s : State) (w : CmdWord) : (presentWord s w).r = s.r := rfl
@[simp] theorem presentWord_err (s : State) (w : CmdWord) : (presentWord s w).err = s.err := rfl
@[simp] theorem presentWord_eflags (s : State) (w : CmdWord) : (presentWord s w).eflags = s.eflags := rfl
@[simp] theorem presentWord_rspValid (s : State) (w : CmdWord) : (presentWord s w).rspValid = s.rspValid := rfl
@[simp] theorem presentWord_inbox (s : State) (w : CmdWord) : (presentWord s w).inbox = .command w :: s.inbox := rfl

/-! ### okWith -/

@[simp] theorem okWith_frame (s : State) (a b c d : Word64) : (okWith s a b c d).frame = s.frame := rfl
@[simp] theorem okWith_bad (s : State) (a b c d : Word64) : (okWith s a b c d).bad = s.bad := rfl
@[simp] theorem okWith_cnt (s : State) (a b c d : Word64) : (okWith s a b c d).cnt = s.cnt := rfl
@[simp] theorem okWith_valid (s : State) (a b c d : Word64) : (okWith s a b c d).valid = s.valid := rfl
@[simp] theorem okWith_r (s : State) (a b c d : Word64) : (okWith s a b c d).r = ⟨a, b, c, d⟩ := rfl
@[simp] theorem okWith_err (s : State) (a b c d : Word64) : (okWith s a b c d).err = 0 := rfl
@[simp] theorem okWith_eflags (s : State) (a b c d : Word64) : (okWith s a b c d).eflags = s.eflags := rfl
@[simp] theorem okWith_rspValid (s : State) (a b c d : Word64) : (okWith s a b c d).rspValid = true := rfl
@[simp] theorem okWith_inbox (s : State) (a b c d : Word64) : (okWith s a b c d).inbox = s.inbox := rfl

/-! ### faultWith -/

@[simp] theorem faultWith_frame (s : State) (code info : Nat) : (faultWith s code info).frame = s.frame := rfl
@[simp] theorem faultWith_bad (s : State) (code info : Nat) : (faultWith s code info).bad = s.bad := rfl
@[simp] theorem faultWith_cnt (s : State) (code info : Nat) : (faultWith s code info).cnt = s.cnt := rfl
@[simp] theorem faultWith_valid (s : State) (code info : Nat) : (faultWith s code info).valid = s.valid := rfl
@[simp] theorem faultWith_r (s : State) (code info : Nat) : (faultWith s code info).r = ⟨BitVec.ofNat 64 info, 0, 0, 0⟩ := rfl
@[simp] theorem faultWith_err (s : State) (code info : Nat) : (faultWith s code info).err = BitVec.ofNat 4 code := rfl
@[simp] theorem faultWith_eflags (s : State) (code info : Nat) : (faultWith s code info).eflags = s.eflags ||| BitVec.twoPow 8 code := rfl
@[simp] theorem faultWith_rspValid (s : State) (code info : Nat) : (faultWith s code info).rspValid = true := rfl
@[simp] theorem faultWith_inbox (s : State) (code info : Nat) : (faultWith s code info).inbox = s.inbox := rfl

/-! ### applyReset and State.reset -/

@[simp] theorem applyReset_frame (rest : List PortEvent) : (applyReset rest).frame = [] := rfl
@[simp] theorem applyReset_bad (rest : List PortEvent) : (applyReset rest).bad = 0 := rfl
@[simp] theorem applyReset_cnt (rest : List PortEvent) : (applyReset rest).cnt = 0 := rfl
@[simp] theorem applyReset_valid (rest : List PortEvent) : (applyReset rest).valid = false := rfl
@[simp] theorem applyReset_r (rest : List PortEvent) : (applyReset rest).r = ⟨0, 0, 0, 0⟩ := rfl
@[simp] theorem applyReset_err (rest : List PortEvent) : (applyReset rest).err = 0 := rfl
@[simp] theorem applyReset_eflags (rest : List PortEvent) : (applyReset rest).eflags = 0 := rfl
@[simp] theorem applyReset_rspValid (rest : List PortEvent) : (applyReset rest).rspValid = false := rfl
@[simp] theorem applyReset_inbox (rest : List PortEvent) : (applyReset rest).inbox = rest := rfl
@[simp] theorem reset_frame : State.reset.frame = [] := rfl
@[simp] theorem reset_bad : State.reset.bad = 0 := rfl
@[simp] theorem reset_cnt : State.reset.cnt = 0 := rfl
@[simp] theorem reset_valid : State.reset.valid = false := rfl
@[simp] theorem reset_r : State.reset.r = ⟨0, 0, 0, 0⟩ := rfl
@[simp] theorem reset_err : State.reset.err = 0 := rfl
@[simp] theorem reset_eflags : State.reset.eflags = 0 := rfl
@[simp] theorem reset_rspValid : State.reset.rspValid = false := rfl
@[simp] theorem reset_inbox : State.reset.inbox = [] := rfl

/-! ### loadChar -/

@[simp] theorem loadChar_valid (ch : Byte) (s : State) : (loadChar ch s).valid = s.valid := by
  unfold loadChar; cases hexDigit ch <;> rfl
@[simp] theorem loadChar_r (ch : Byte) (s : State) : (loadChar ch s).r = s.r := by
  unfold loadChar; cases hexDigit ch <;> rfl
@[simp] theorem loadChar_err (ch : Byte) (s : State) : (loadChar ch s).err = s.err := by
  unfold loadChar; cases hexDigit ch <;> rfl
@[simp] theorem loadChar_eflags (ch : Byte) (s : State) : (loadChar ch s).eflags = s.eflags := by
  unfold loadChar; cases hexDigit ch <;> rfl
@[simp] theorem loadChar_rspValid (ch : Byte) (s : State) : (loadChar ch s).rspValid = s.rspValid := by
  unfold loadChar; cases hexDigit ch <;> rfl
@[simp] theorem loadChar_inbox (ch : Byte) (s : State) : (loadChar ch s).inbox = s.inbox := by
  unfold loadChar; cases hexDigit ch <;> rfl
@[simp] theorem loadChar_cnt (ch : Byte) (s : State) : (loadChar ch s).cnt = s.cnt + 1 := by
  unfold loadChar; cases hexDigit ch <;> rfl
@[simp] theorem loadChar_frame (ch : Byte) (s : State) :
    (loadChar ch s).frame = writeNibble s.frame s.cnt.toNat ((hexDigit ch).getD 0) := by
  unfold loadChar; cases hexDigit ch <;> rfl
theorem loadChar_bad (ch : Byte) (s : State) :
    (loadChar ch s).bad = if hexDigit ch = none then markBad s.bad (s.cnt.toNat / 2) else s.bad := by
  unfold loadChar; cases hexDigit ch <;> rfl

/-! ### The shared ends of a command, in the terms of claims -/

/-- A command that finishes with four results leaves `okWith`. -/
theorem finish_eq_okWith (s : State) (rs : Results) : finish s rs = okWith s rs.r0 rs.r1 rs.r2 rs.r3 := rfl

/-- A raise leaves `faultWith`, with the number of its status. -/
theorem raise_eq_faultWith (s : State) (st : Status) (info : Nat) :
    raise s ⟨st, BitVec.ofNat 64 info⟩ = faultWith s (statusNumber st) info := rfl

end Sys2Proof.Machine
end

