-- ==== Sys2Proof/Laws/Flags.lean ====
section
/-! SUPPORT. The flag computations: status codes, the sticky flags, the marked bytes, and hexadecimal digits. -/

namespace Sys2Proof.Machine

@[simp] theorem errCode_ok : errCode .ok = 0 := rfl

/-- A status code is at most 7 (60_exceptions.md R200). -/
theorem statusNumber_le (st : Status) : statusNumber st ≤ 7 := by
  cases st <;> decide

/-- The value of `ERR` is the number of the status code. -/
@[simp] theorem errCode_toNat (st : Status) : (errCode st).toNat = statusNumber st := by
  cases st <;> rfl

/-- Setting a sticky flag sets that one bit (10_state.md R16). -/
theorem setSticky_getLsbD (e : BitVec 8) (st : Status) (k : Nat) :
    (setSticky e st).getLsbD k = (e.getLsbD k || decide (k = statusNumber st)) := by
  have hs := statusNumber_le st
  have : decide (statusNumber st < 8) = true := by simp; omega
  simp only [setSticky, BitVec.getLsbD_or, BitVec.getLsbD_twoPow, this, Bool.true_and, eq_comm]

/-- Marking a byte sets its flag and no other (10_state.md R11). -/
theorem markBad_getLsbD (b : BitVec 70) (a c : Nat) (hc : c < 70) :
    (markBad b a).getLsbD c = (b.getLsbD c || decide (c = a)) := by
  by_cases h : c = a
  · subst h; simp [markBad, hc]
  · simp [markBad, BitVec.getLsbD_twoPow, h, Ne.symm h]

/-- No marked byte is found in a range exactly when the range is readable (20_memory.md R31). -/
theorem firstBad_eq_none {s : State} {a n : Nat} : firstBad s.bad a n = none ↔ readable s a n := by
  simp only [firstBad, List.find?_eq_none, List.mem_range'_1, readable]
  constructor
  · intro h k hk
    simpa using h (a + k) ⟨by omega, by omega⟩
  · rintro h x ⟨h1, h2⟩
    have := h (x - a) (by omega)
    rw [show a + (x - a) = x by omega] at this
    simp [this]

/-- The marked byte found in a range is the least one (20_memory.md R31). -/
theorem firstBad_of_firstMarked {s : State} {a n k : Nat} (h : firstMarked s a n k) :
    firstBad s.bad a n = some (a + k) := by
  obtain ⟨hk, hb, hlt⟩ := h
  simp only [firstBad, List.find?_eq_some_iff_append]
  refine ⟨hb, List.range' a k, List.range' (a + k + 1) (n - k - 1), ?_, ?_⟩
  · rw [show n = k + (1 + (n - k - 1)) by omega, ← List.range'_append_1, ← List.range'_append_1]
    simp [List.range'_one]
  · intro x hx
    obtain ⟨h1, h2⟩ := List.mem_range'_1.1 hx
    have := hlt (x - a) (by omega)
    rw [show a + (x - a) = x by omega] at this
    simp [this]

/-- A found byte is the least marked one of its range. -/
theorem firstMarked_of_firstBad {s : State} {a n k : Nat} (h : firstBad s.bad a n = some k) :
    a ≤ k ∧ firstMarked s a n (k - a) := by
  have hm := List.mem_of_find?_eq_some h
  obtain ⟨h1, h2⟩ := List.mem_range'_1.1 hm
  have hb : s.bad.getLsbD k = true := by
    have := List.find?_some h
    simpa using this
  refine ⟨h1, by omega, by rw [show a + (k - a) = k by omega]; exact hb, ?_⟩
  intro j hj
  by_contra hne
  have hex : ∃ j, j < k - a ∧ s.bad.getLsbD (a + j) = true := ⟨j, hj, by simpa using hne⟩
  have hfind := Nat.find_spec hex
  have hmin : ∀ i, i < Nat.find hex → s.bad.getLsbD (a + i) = false := by
    intro i hi
    have := Nat.find_min hex hi
    simp only [not_and] at this
    simpa using this (by omega)
  have := firstBad_of_firstMarked (s := s) (a := a) (n := n) ⟨by omega, hfind.2, hmin⟩
  rw [this] at h
  simp only [Option.some.injEq] at h
  omega

/-- The value of a hexadecimal digit is below 16 (20_memory.md R33). -/
theorem hexDigit_lt {ch : Byte} {d : Nat} (h : hexDigit ch = some d) : d < 16 := by
  simp only [hexDigit] at h
  split at h
  · simp only [Option.some.injEq] at h; omega
  · split at h
    · simp only [Option.some.injEq] at h; omega
    · split at h
      · simp only [Option.some.injEq] at h; omega
      · cases h

/-- The nibble stored for any character is below 16. -/
theorem hexDigit_getD_lt (ch : Byte) : (hexDigit ch).getD 0 < 16 := by
  cases h : hexDigit ch with
  | none => decide
  | some d => exact hexDigit_lt h

end Sys2Proof.Machine
end

