-- ==== Sys2Proof/Laws/Memory.lean ====
section
/-! SUPPORT. The laws of the frame's memory: reads after writes, and the canonical form, kept by every memory
operation. -/

namespace Sys2Proof.Machine

/-- A memory in canonical form from a higher address is in canonical form from a lower one. -/
theorem wfFrom_mono {m : Memory} {lo hi : Nat} (h : Memory.wfFrom hi m = true) (hle : lo ≤ hi) :
    Memory.wfFrom lo m = true := by
  cases m with
  | nil => rfl
  | cons c rest =>
    obtain ⟨k, v⟩ := c
    simp only [Memory.wfFrom, Bool.and_eq_true, decide_eq_true_eq] at h ⊢
    exact ⟨⟨⟨hle.trans h.1.1.1, h.1.1.2⟩, h.1.2⟩, h.2⟩

/-- Below the first address of a canonical memory every byte reads as 0. -/
theorem read_below {m : Memory} {lo a : Nat} (h : Memory.wfFrom lo m = true) (ha : a < lo) :
    Memory.read m a = 0 := by
  induction m generalizing lo with
  | nil => rfl
  | cons c rest ih =>
    obtain ⟨k, v⟩ := c
    simp only [Memory.wfFrom, Bool.and_eq_true, decide_eq_true_eq] at h
    have hne : a ≠ k := by omega
    simp only [Memory.read, if_neg hne]
    exact ih h.2 (by omega)

/-- A write keeps the canonical form. -/
theorem write_wfFrom {m : Memory} {lo a : Nat} {b : Byte} (h : Memory.wfFrom lo m = true) (hlo : lo ≤ a)
    (ha : a < 70) : Memory.wfFrom lo (Memory.write m a b) = true := by
  induction m generalizing lo with
  | nil =>
    by_cases hb : b = 0
    · simp [Memory.write, hb, Memory.wfFrom]
    · simp only [Memory.write, if_neg hb]
      simp [Memory.wfFrom, hlo, ha]
      simpa using hb
  | cons c rest ih =>
    obtain ⟨k, v⟩ := c
    have h' := h
    simp only [Memory.wfFrom, Bool.and_eq_true, decide_eq_true_eq] at h'
    obtain ⟨⟨⟨h1, h2⟩, h3⟩, h4⟩ := h'
    unfold Memory.write
    split
    · next hlt =>
      split
      · exact h
      · next hb =>
        simp only [Memory.wfFrom, Bool.and_eq_true, decide_eq_true_eq]
        exact ⟨⟨⟨hlo, ha⟩, hb⟩, ⟨⟨hlt, h2⟩, h3⟩, h4⟩
    · split
      · next heq =>
        subst heq
        split
        · exact wfFrom_mono h4 (by omega)
        · next hb =>
          simp only [Memory.wfFrom, Bool.and_eq_true, decide_eq_true_eq]
          exact ⟨⟨⟨hlo, ha⟩, hb⟩, h4⟩
      · next hge hne =>
        simp only [Memory.wfFrom, Bool.and_eq_true, decide_eq_true_eq]
        exact ⟨⟨⟨h1, h2⟩, h3⟩, ih h4 (by omega)⟩

/-- A write keeps the canonical form of the frame. -/
theorem write_wf {m : Memory} {a : Nat} {b : Byte} (h : Memory.wf m = true) (ha : a < 70) :
    Memory.wf (Memory.write m a b) = true :=
  write_wfFrom h (Nat.zero_le a) ha

/-- Every other byte reads as before a write. -/
theorem read_write_other (m : Memory) {a c : Nat} (b : Byte) (hne : c ≠ a) :
    Memory.read (Memory.write m a b) c = Memory.read m c := by
  induction m with
  | nil => by_cases hb : b = 0 <;> simp only [Memory.write, hb, if_true, if_false, Memory.read, if_neg hne]
  | cons e rest ih =>
    obtain ⟨k, v⟩ := e
    unfold Memory.write
    split
    · split
      · rfl
      · simp [Memory.read, hne]
    · split
      · next heq =>
        subst heq
        split <;> simp [Memory.read, hne]
      · simp only [Memory.read, ih]

/-- The byte written reads back from a canonical memory. -/
theorem read_write_same {m : Memory} {lo : Nat} (a : Nat) (b : Byte) (h : Memory.wfFrom lo m = true) :
    Memory.read (Memory.write m a b) a = b := by
  induction m generalizing lo with
  | nil =>
    by_cases hb : b = 0
    · simp [Memory.write, hb, Memory.read]
    · simp only [Memory.write, if_neg hb]
      simp [Memory.read]
  | cons e rest ih =>
    obtain ⟨k, v⟩ := e
    have h' := h
    simp only [Memory.wfFrom, Bool.and_eq_true, decide_eq_true_eq] at h'
    unfold Memory.write
    split
    · next hlt =>
      split
      · next hb =>
        have hne : a ≠ k := by omega
        simp only [Memory.read, if_neg hne, hb]
        exact read_below h'.2 (by omega)
      · simp [Memory.read]
    · split
      · next heq =>
        subst heq
        split
        · next hb => rw [hb]; exact read_below h'.2 (by omega)
        · simp [Memory.read]
      · next hne =>
        simp only [Memory.read, if_neg hne]
        exact ih h'.2

/-- The nibble write keeps the canonical form (20_memory.md R32). -/
theorem writeNibble_wf {m : Memory} {i d : Nat} (h : Memory.wf m = true) (hi : i < 140) :
    Memory.wf (writeNibble m i d) = true := by
  unfold writeNibble
  split <;> exact write_wf h (by omega)

/-- The nibble write leaves every other byte. -/
theorem read_writeNibble_other (m : Memory) {i a : Nat} (d : Nat) (hne : a ≠ i / 2) :
    Memory.read (writeNibble m i d) a = Memory.read m a := by
  unfold writeNibble
  split <;> exact read_write_other m _ hne

/-- The byte the nibble write leaves (20_memory.md R32, 40_frame_control.md R72). -/
theorem read_writeNibble_same {m : Memory} {i d : Nat} (h : Memory.wf m = true) (hd : d < 16) :
    (Memory.read (writeNibble m i d) (i / 2)).toNat =
      if i % 2 = 0 then d * 16 else (Memory.read m (i / 2)).toNat / 16 * 16 + d := by
  have hb := (Memory.read m (i / 2)).isLt
  unfold writeNibble
  split
  · simp only [read_write_same (i / 2) _ h, BitVec.toNat_ofNat]
    omega
  · simp only [read_write_same (i / 2) _ h, BitVec.toNat_ofNat, bitSlice]
    omega

/-- The reset memory is canonical. -/
theorem reset_wf : Memory.wf State.reset.frame = true := rfl

/-- Every byte reads as 0 after reset (10_state.md R20). -/
@[simp] theorem read_nil (a : Nat) : Memory.read [] a = 0 := rfl

end Sys2Proof.Machine
end

