-- ==== Sys2Proof/Laws/Ops.lean ====
section
/-! SUPPORT. What each shared operation can do: the cases of `memRead`, of the accessor shapes, and the form every
accessor command has. -/

namespace Sys2Proof.Machine

/-- A settled command answers a next state: its results, or its raise. -/
theorem settle_next {s t : State} {q : Answer} (h : settle s q = .next t) :
    (∃ rs, q = .ok rs ∧ t = finish s rs) ∨ (∃ e, q = .error e ∧ t = raise s e) := by
  cases q with
  | ok rs => exact .inl ⟨rs, rfl, by simpa [settle] using h.symm⟩
  | error e => exact .inr ⟨e, rfl, by simpa [settle] using h.symm⟩

/-- Everything an accessor command can answer: results or a raise with a committed frame, else `NotConstructed`. -/
theorem accessor_next {s t : State} {q : Answer} (h : accessor s q = .next t) :
    (s.valid = true ∧ ∃ rs, q = .ok rs ∧ t = finish s rs) ∨
    (s.valid = true ∧ ∃ e, q = .error e ∧ t = raise s e) ∨
    (s.valid = false ∧ t = raise s ⟨.notConstructed, 0⟩) := by
  unfold accessor at h
  split at h
  · next hv =>
    rcases settle_next h with h' | h'
    · exact .inl ⟨hv, h'⟩
    · exact .inr (.inl ⟨hv, h'⟩)
  · next hv => exact .inr (.inr ⟨by simpa using hv, by simpa using h.symm⟩)

/-- An accessor command always answers a next state. -/
theorem accessor_total (s : State) (q : Answer) : ∃ t, accessor s q = .next t := by
  unfold accessor settle
  split
  · cases q <;> exact ⟨_, rfl⟩
  · exact ⟨_, rfl⟩

theorem accessor_invalid {s : State} (q : Answer) (hv : s.valid = false) :
    accessor s q = .next (faultWith s 2 0) := by
  simp only [accessor, hv]
  rfl

theorem accessor_ok {s : State} {rs : Results} (hv : s.valid = true) :
    accessor s (.ok rs) = .next (okWith s rs.r0 rs.r1 rs.r2 rs.r3) := by
  simp only [accessor, hv]
  rfl

theorem accessor_error {s : State} {st : Status} {info : Nat} (hv : s.valid = true) :
    accessor s (.error ⟨st, regOfNat info⟩) = .next (faultWith s (statusNumber st) info) := by
  simp only [accessor, hv]
  rfl

/-- `MemRead` past the end of the frame (20_memory.md R31). -/
theorem memRead_range {s : State} {a n : Nat} (h : 70 < a + n) :
    memRead s a n = .error ⟨.rangeError, regOfNat (a + n)⟩ := by
  simp [memRead, h]

/-- `MemRead` of a range with a marked byte (R31). -/
theorem memRead_marked {s : State} {a n k : Nat} (h : a + n ≤ 70) (hm : firstMarked s a n k) :
    memRead s a n = .error ⟨.decodeError, regOfNat (a + k)⟩ := by
  simp [memRead, show ¬ 70 < a + n by omega, firstBad_of_firstMarked hm]

/-- `MemRead` of a readable range (R31). -/
theorem memRead_ok {s : State} {a n : Nat} (h : a + n ≤ 70) (hr : readable s a n) :
    memRead s a n = .ok (bytesAt s a n) := by
  simp only [memRead, show ¬ a + n > 70 by omega, if_false, firstBad_eq_none.2 hr]
  rfl

theorem readThen_range {s : State} {a n : Nat} (f : List Byte → Results) (h : 70 < a + n) :
    readThen s a n f = .error ⟨.rangeError, regOfNat (a + n)⟩ := by
  simp [readThen, memRead_range h]

theorem readThen_marked {s : State} {a n k : Nat} (f : List Byte → Results) (h : a + n ≤ 70)
    (hm : firstMarked s a n k) : readThen s a n f = .error ⟨.decodeError, regOfNat (a + k)⟩ := by
  simp [readThen, memRead_marked h hm]

theorem readThen_ok {s : State} {a n : Nat} (f : List Byte → Results) (h : a + n ≤ 70) (hr : readable s a n) :
    readThen s a n f = .ok (f (bytesAt s a n)) := by
  simp [readThen, memRead_ok h hr]

/-- Once everything a field read can do (44_fields_header.md R130). -/
theorem fieldRead_ok {s : State} {fo fn : Nat} (o : ByteOrder) (f : Nat → Results) (hb : fo + fn ≤ 70)
    (hv : s.valid = true) (hr : readable s fo fn) :
    fieldRead s fo fn o f = .next (finish s (f (orderValue o (bytesAt s fo fn)))) := by
  simp only [fieldRead, readThen_ok _ hb hr, accessor, hv]
  rfl

theorem fieldRead_invalid {s : State} {fo fn : Nat} (o : ByteOrder) (f : Nat → Results) (hv : s.valid = false) :
    fieldRead s fo fn o f = .next (faultWith s 2 0) :=
  accessor_invalid _ hv

theorem fieldRead_marked {s : State} {fo fn k : Nat} (o : ByteOrder) (f : Nat → Results) (hb : fo + fn ≤ 70)
    (hv : s.valid = true) (hm : firstMarked s fo fn k) :
    fieldRead s fo fn o f = .next (faultWith s 7 (fo + k)) := by
  simp only [fieldRead, readThen_marked _ hb hm]
  exact accessor_error hv

theorem countChecked_bad {cnt : Nat} (rest : Answer) (h : cnt = 0 ∨ 8 < cnt) :
    countChecked cnt rest = .error ⟨.rangeError, regOfNat cnt⟩ := by
  simp [countChecked, h]

theorem countChecked_good {cnt : Nat} (rest : Answer) (h1 : 1 ≤ cnt) (h2 : cnt ≤ 8) :
    countChecked cnt rest = rest := by
  simp [countChecked, show ¬ (cnt = 0 ∨ 8 < cnt) by omega]

/-- `MemRead` sees the frame and its `BAD` flags alone. -/
theorem memRead_congr {s s' : State} (hf : s.frame = s'.frame) (hb : s.bad = s'.bad) (a n : Nat) :
    memRead s a n = memRead s' a n := by
  simp [memRead, frameBytes, hf, hb]

theorem readThen_congr {s s' : State} (hf : s.frame = s'.frame) (hb : s.bad = s'.bad) (a n : Nat)
    (f : List Byte → Results) : readThen s a n f = readThen s' a n f := by
  simp [readThen, memRead_congr hf hb]

end Sys2Proof.Machine
end

