-- ==== Sys2Proof/Laws/Exec.lean ====
section
/-! SUPPORT. What exec can do, said once: every accessor command is `accessor` of an answer that sees the frame and its
`BAD` flags alone and raises RangeError or DecodeError only; the other four commands case by case. -/

namespace Sys2Proof.Machine

/-- A state with a given frame and given flags, all else at reset. -/
def view (f : Memory) (b : BitVec 70) : State :=
  { State.reset with frame := f, bad := b }

/-- An answer that raises nothing but RangeError and DecodeError. -/
def raisesRead (q : Answer) : Prop :=
  ∀ e, q = .error e → e.status = .rangeError ∨ e.status = .decodeError

theorem memRead_error {s : State} {a n : Nat} {e : Raised} (h : memRead s a n = .error e) :
    e.status = .rangeError ∨ e.status = .decodeError := by
  unfold memRead at h
  split at h
  · cases h; exact .inl rfl
  · split at h
    · cases h; exact .inr rfl
    · cases h

theorem readThen_raisesRead (s : State) (a n : Nat) (f : List Byte → Results) : raisesRead (readThen s a n f) := by
  intro e h
  unfold readThen at h
  split at h
  · next e' he => cases h; exact memRead_error he
  · cases h

theorem countChecked_raisesRead {cnt : Nat} {q : Answer} (h : raisesRead q) : raisesRead (countChecked cnt q) := by
  intro e he
  unfold countChecked at he
  split at he
  · cases he; exact .inl rfl
  · exact h e he

theorem groupChecked_raisesRead {w pos wid : Nat} {q : Answer} (h : raisesRead q) :
    raisesRead (groupChecked w pos wid q) := by
  intro e he
  unfold groupChecked at he
  split at he
  · cases he; exact .inl rfl
  · exact h e he

theorem edcAnswer_raisesRead (p : Params) (s : State) : raisesRead (edcAnswer p s) := by
  intro e he
  unfold edcAnswer at he
  split at he
  · next e' h' => cases he; exact memRead_error h'
  · exact readThen_raisesRead _ _ _ _ e he

/-- The form of every accessor command. -/
def accessorForm (i : Instr) : Prop :=
  ∃ q : Memory → BitVec 70 → Answer,
    (∀ s, exec i s = accessor s (q s.frame s.bad)) ∧ ∀ f b, raisesRead (q f b)

/-- A field read has the accessor form. -/
theorem fieldRead_form {i : Instr} (fo fn : Nat) (o : ByteOrder) (g : Nat → Results)
    (h : ∀ s, exec i s = fieldRead s fo fn o g) : accessorForm i :=
  ⟨fun f b => readThen (view f b) fo fn fun bs => g (orderValue o bs), fun s => (h s).trans rfl,
    fun _ _ => readThen_raisesRead _ _ _ _⟩

theorem fieldPlain_form {i : Instr} (fo fn : Nat) (o : ByteOrder) (h : ∀ s, exec i s = fieldPlain s fo fn o) :
    accessorForm i :=
  fieldRead_form fo fn o (fun v => result0 (regOfNat v)) h

theorem fieldAnalog_form {i : Instr} (an : Analog) (fo : Nat) (h : ∀ s, exec i s = fieldAnalog an s fo) :
    accessorForm i :=
  fieldRead_form fo 1 .be _ h

theorem fieldScaled_form {i : Instr} (q : PosRatio) (frac fo fn : Nat)
    (h : ∀ s, exec i s = fieldScaled q frac s fo fn) : accessorForm i :=
  fieldRead_form fo fn .le _ h

/-- Every accessor command has the accessor form. -/
theorem exec_accessor_form {i : Instr} (h : isAccessor i = true) : accessorForm i := by
  cases i with
  | clr | push _ | commit | stat => cases h
  | getb off cnt =>
    exact ⟨fun f b => rangeRead .be off cnt (view f b), fun _ => rfl,
      fun _ _ => countChecked_raisesRead (readThen_raisesRead _ _ _ _)⟩
  | getr off cnt =>
    exact ⟨fun f b => rangeRead .le off cnt (view f b), fun _ => rfl,
      fun _ _ => countChecked_raisesRead (readThen_raisesRead _ _ _ _)⟩
  | bfx off cnt4 rev dir pos wid =>
    exact ⟨fun f b => countChecked cnt4 (groupChecked (8 * cnt4) pos wid (readThen (view f b) off cnt4 fun bs =>
        ⟨regOfNat (bitfield (orderValue rev bs) (8 * cnt4) dir pos wid), regOfNat wid, 0, 0⟩)), fun _ => rfl,
      fun _ _ => countChecked_raisesRead (groupChecked_raisesRead (readThen_raisesRead _ _ _ _))⟩
  | invb off cnt rev =>
    exact ⟨fun f b => countChecked cnt (readThen (view f b) off cnt fun bs =>
        rangeResults cnt (complementBits (8 * cnt) (orderValue rev bs))), fun _ => rfl,
      fun _ _ => countChecked_raisesRead (readThen_raisesRead _ _ _ _)⟩
  | csum off cnt =>
    exact ⟨fun f b => readThen (view f b) off cnt fun bs => ⟨regOfNat (checksum bs), regOfNat (byteSum bs), 0, 0⟩,
      fun _ => rfl, fun _ _ => readThen_raisesRead _ _ _ _⟩
  | edc =>
    exact ⟨fun f b => edcAnswer Config.params (view f b), fun _ => rfl, fun _ _ => edcAnswer_raisesRead _ _⟩
  | londd | latdd | londms | latdms => exact fieldRead_form _ _ _ _ fun _ => rfl
  | fldSysc => exact fieldPlain_form 0 4 .be fun _ => rfl
  | fldMtyp => exact fieldPlain_form 4 1 .be fun _ => rfl
  | fldUid => exact fieldPlain_form 5 4 .le fun _ => rfl
  | fldCcf => exact fieldPlain_form 9 2 .be fun _ => rfl
  | fldMnum => exact fieldPlain_form 11 1 .be fun _ => rfl
  | fldHwv =>
    exact fieldRead_form 12 1 .be (fun b => ⟨regOfNat b, regOfNat (bitSlice b 4 0), regOfNat (bitSlice b 7 5), 0⟩) fun _ => rfl
  | fldHwmodel =>
    exact fieldRead_form 12 1 .be (fun b => result0 (regOfNat (bitSlice b 4 0))) fun _ => rfl
  | fldHwmodem =>
    exact fieldRead_form 12 1 .be (fun b => result0 (regOfNat (bitSlice b 7 5))) fun _ => rfl
  | fldSwv => exact fieldPlain_form 13 1 .be fun _ => rfl
  | fldPrv => exact fieldPlain_form 14 1 .be fun _ => rfl
  | fldUsgo => exact fieldPlain_form 15 1 .be fun _ => rfl
  | fldCgsm => exact fieldPlain_form 16 1 .be fun _ => rfl
  | fldTrsd => exact fieldPlain_form 17 1 .be fun _ => rfl
  | fldTrsn => exact fieldPlain_form 18 1 .be fun _ => rfl
  | fldMode => exact fieldPlain_form 19 1 .be fun _ => rfl
  | fldIo1 => exact fieldPlain_form 20 1 .be fun _ => rfl
  | fldIo2 => exact fieldPlain_form 21 1 .be fun _ => rfl
  | fldIo3 => exact fieldPlain_form 22 1 .be fun _ => rfl
  | fldIo4 => exact fieldPlain_form 23 1 .be fun _ => rfl
  | fldIo5 => exact fieldPlain_form 24 1 .be fun _ => rfl
  | fldAn1 => exact fieldAnalog_form Config.params.an1 25 fun _ => rfl
  | fldAn2 => exact fieldAnalog_form Config.params.an2 26 fun _ => rfl
  | fldAn3 => exact fieldAnalog_form Config.params.an3 27 fun _ => rfl
  | fldAn4 => exact fieldAnalog_form Config.params.an4 28 fun _ => rfl
  | fldMile => exact fieldPlain_form 29 3 .le fun _ => rfl
  | fldMpf => exact fieldPlain_form 32 6 .le fun _ => rfl
  | fldLgf =>
    exact fieldRead_form 38 2 .le (fun v => ⟨regOfNat v, regOfNat (bitSlice v 15 11), regOfNat (bitSlice v 10 6), regOfNat (bitSlice v 5 0)⟩) fun _ => rfl
  | fldLgfd =>
    exact fieldRead_form 38 2 .le (fun v => result0 (regOfNat (bitSlice v 15 11))) fun _ => rfl
  | fldLgfh =>
    exact fieldRead_form 38 2 .le (fun v => result0 (regOfNat (bitSlice v 10 6))) fun _ => rfl
  | fldLgfm =>
    exact fieldRead_form 38 2 .le (fun v => result0 (regOfNat (bitSlice v 5 0))) fun _ => rfl
  | fldLocs => exact fieldPlain_form 40 1 .be fun _ => rfl
  | fldMod1 => exact fieldPlain_form 41 1 .be fun _ => rfl
  | fldMod2 => exact fieldPlain_form 42 1 .be fun _ => rfl
  | fldSats => exact fieldPlain_form 43 1 .be fun _ => rfl
  | fldLonr => exact fieldPlain_form 44 4 .le fun _ => rfl
  | fldLatr => exact fieldPlain_form 48 4 .le fun _ => rfl
  | fldAlt => exact fieldScaled_form Config.params.altScale Config.params.altFrac 52 4 fun _ => rfl
  | fldGspd => exact fieldScaled_form Config.params.spdScale 3 56 4 fun _ => rfl
  | fldSdir => exact fieldScaled_form Config.params.dirScale Config.params.dirFrac 60 2 fun _ => rfl
  | fldUsec => exact fieldPlain_form 62 1 .be fun _ => rfl
  | fldUmin => exact fieldPlain_form 63 1 .be fun _ => rfl
  | fldUhr => exact fieldPlain_form 64 1 .be fun _ => rfl
  | fldUday => exact fieldPlain_form 65 1 .be fun _ => rfl
  | fldUmon => exact fieldPlain_form 66 1 .be fun _ => rfl
  | fldUyear => exact fieldPlain_form 67 2 .le fun _ => rfl
  | fldCkb => exact fieldPlain_form 69 1 .be fun _ => rfl

/-- Everything an accessor command can do: results with a committed frame, a RangeError or DecodeError, or
`NotConstructed`. -/
theorem exec_accessor_next {i : Instr} {s t : State} (ha : isAccessor i = true) (h : exec i s = .next t) :
    (s.valid = true ∧ ∃ rs, t = finish s rs) ∨
    (∃ e : Raised, e.status ≠ .ok ∧ t = raise s e) := by
  obtain ⟨q, hq, hr⟩ := exec_accessor_form ha
  rw [hq] at h
  rcases accessor_next h with ⟨hv, rs, -, ht⟩ | ⟨-, e, he, ht⟩ | ⟨-, ht⟩
  · exact .inl ⟨hv, rs, ht⟩
  · refine .inr ⟨e, ?_, ht⟩
    rcases hr _ _ e he with h' | h' <;> rw [h'] <;> decide
  · exact .inr ⟨_, by decide, ht⟩

/-- Everything `PUSH` can do (40_frame_control.md R72). -/
theorem execPush_next {ch : Byte} {s t : State} (h : execPush ch s = .next t) :
    (s.valid = true ∧ t = raise s ⟨.frameLocked, 0⟩) ∨
    (s.valid = false ∧ 140 ≤ s.cnt.toNat ∧ t = finish { s with cnt := 141 } (result0 141)) ∨
    (s.valid = false ∧ s.cnt.toNat < 140 ∧
      t = finish (loadChar ch s) (result0 (regOfNat (loadChar ch s).cnt.toNat))) := by
  unfold execPush at h
  split at h
  · next hv => exact .inl ⟨hv, by simpa using h.symm⟩
  · next hv =>
    have hv' : s.valid = false := by simpa using hv
    by_cases hc : 140 ≤ s.cnt.toNat
    · refine .inr (.inl ⟨hv', hc, ?_⟩)
      simp only [ge_iff_le, hc, if_true] at h
      exact (Host.Outcome.next.inj h).symm
    · refine .inr (.inr ⟨hv', by omega, ?_⟩)
      simp only [ge_iff_le, hc, if_false] at h
      exact (Host.Outcome.next.inj h).symm

/-- Everything `COMMIT` can do (40_frame_control.md R73). -/
theorem execCommit_next {s t : State} (h : execCommit s = .next t) :
    (∃ e : Raised, e.status ≠ .ok ∧ t = raise s e) ∨
    (s.valid = false ∧ s.cnt.toNat = 140 ∧ t = finish { s with valid := true } (result0 140)) := by
  unfold execCommit at h
  split at h
  · exact .inl ⟨⟨.frameLocked, 0⟩, by simp, by simpa using h.symm⟩
  · next hv =>
    split at h
    · exact .inl ⟨⟨.constructionEmpty, 0⟩, by simp, by simpa using h.symm⟩
    · split at h
      · exact .inl ⟨⟨.constructionLength, regOfNat s.cnt.toNat⟩, by simp, by simpa using h.symm⟩
      · next hc => exact .inr ⟨by simpa using hv, by simpa using hc, (Host.Outcome.next.inj h).symm⟩

/-- Everything any command can do, said once: `CLR`, a raise, results with no other change, the two loads of `PUSH`, the
committing `COMMIT`. -/
theorem exec_next_all {i : Instr} {s t : State} (h : exec i s = .next t) :
  (i = .clr ∧ t = finish { s with frame := [], bad := 0, cnt := 0, valid := false, eflags := 0 } ⟨0, 0, 0, 0⟩) ∨
  (∃ e : Raised, e.status ≠ .ok ∧ t = raise s e) ∨
  ((i = .stat ∨ (isAccessor i = true ∧ s.valid = true)) ∧ ∃ rs, t = finish s rs) ∨
  (∃ ch, i = .push ch ∧ s.valid = false ∧ 140 ≤ s.cnt.toNat ∧ t = finish { s with cnt := 141 } (result0 141)) ∨
  (∃ ch, i = .push ch ∧ s.valid = false ∧ s.cnt.toNat < 140 ∧
      t = finish (loadChar ch s) (result0 (regOfNat (loadChar ch s).cnt.toNat))) ∨
  (i = .commit ∧ s.valid = false ∧ s.cnt.toNat = 140 ∧ t = finish { s with valid := true } (result0 140)) := by
  by_cases ha : isAccessor i = true
  · rcases exec_accessor_next ha h with ⟨hv, rs, ht⟩ | ⟨e, he, ht⟩
    · exact .inr (.inr (.inl ⟨.inr ⟨ha, hv⟩, rs, ht⟩))
    · exact .inr (.inl ⟨e, he, ht⟩)
  · cases i <;> simp [isAccessor] at ha
    case clr => exact .inl ⟨rfl, (Host.Outcome.next.inj h).symm⟩
    case stat => exact .inr (.inr (.inl ⟨.inl rfl, _, (Host.Outcome.next.inj h).symm⟩))
    case push ch =>
      rcases execPush_next h with ⟨_, ht⟩ | ⟨a, b, ht⟩ | ⟨a, b, ht⟩
      · exact .inr (.inl ⟨_, by simp, ht⟩)
      · exact .inr (.inr (.inr (.inl ⟨ch, rfl, a, b, ht⟩)))
      · exact .inr (.inr (.inr (.inr (.inl ⟨ch, rfl, a, b, ht⟩))))
    case commit =>
      rcases execCommit_next h with h | h
      · exact .inr (.inl h)
      · exact .inr (.inr (.inr (.inr (.inr ⟨rfl, h⟩))))

end Sys2Proof.Machine
end

