-- ==== Sys2Proof/Laws/PerInstr.lean ====
section
/-! SUPPORT. Facts made per instruction. Family EncodeFits: the number of a well-formed command's encoding fits a 32-bit
word and has the command's opcode in bits 31:26 (30_encoding.md R50, R57). -/

namespace Sys2Proof.Laws.EncodeFits

/-- A well-formed command's encoding fits its word, opcode on top. -/
def Statement (i : Instr) : Prop :=
  i.wellFormed = true → encodeNat i < 2 ^ 32 ∧ encodeNat i / 2 ^ 26 = opcode i

theorem clr : Statement (.clr) := fun _ => by decide
theorem push (ch : Byte) : Statement (.push ch) := fun _ => by
  have := ch.isLt
  simp only [encodeNat, opcode]
  omega
theorem commit : Statement (.commit) := fun _ => by decide
theorem stat : Statement (.stat) := fun _ => by decide
theorem getb (off cnt : Nat) : Statement (.getb off cnt) := fun h => by
  simp only [Instr.wellFormed, rangeFits, Bool.and_eq_true, decide_eq_true_eq] at h
  simp only [encodeNat, opcode]
  omega
theorem getr (off cnt : Nat) : Statement (.getr off cnt) := fun h => by
  simp only [Instr.wellFormed, rangeFits, Bool.and_eq_true, decide_eq_true_eq] at h
  simp only [encodeNat, opcode]
  omega
theorem bfx (off cnt4 : Nat) (rev : ByteOrder) (dir : BitDir) (pos wid : Nat) : Statement (.bfx off cnt4 rev dir pos wid) := fun h => by
  simp only [Instr.wellFormed, Bool.and_eq_true, decide_eq_true_eq] at h
  simp only [encodeNat, opcode]
  cases rev <;> cases dir <;> simp only [ByteOrder.bit, BitDir.bit] <;> omega
theorem invb (off cnt : Nat) (rev : ByteOrder) : Statement (.invb off cnt rev) := fun h => by
  simp only [Instr.wellFormed, rangeFits, Bool.and_eq_true, decide_eq_true_eq] at h
  simp only [encodeNat, opcode]
  cases rev <;> simp only [ByteOrder.bit] <;> omega
theorem csum (off cnt : Nat) : Statement (.csum off cnt) := fun h => by
  simp only [Instr.wellFormed, rangeFits, Bool.and_eq_true, decide_eq_true_eq] at h
  simp only [encodeNat, opcode]
  omega
theorem edc : Statement (.edc) := fun _ => by decide
theorem londd : Statement (.londd) := fun _ => by decide
theorem latdd : Statement (.latdd) := fun _ => by decide
theorem londms : Statement (.londms) := fun _ => by decide
theorem latdms : Statement (.latdms) := fun _ => by decide
theorem fldSysc : Statement .fldSysc := fun _ => by decide
theorem fldMtyp : Statement .fldMtyp := fun _ => by decide
theorem fldUid : Statement .fldUid := fun _ => by decide
theorem fldCcf : Statement .fldCcf := fun _ => by decide
theorem fldMnum : Statement .fldMnum := fun _ => by decide
theorem fldHwv : Statement .fldHwv := fun _ => by decide
theorem fldHwmodel : Statement .fldHwmodel := fun _ => by decide
theorem fldHwmodem : Statement .fldHwmodem := fun _ => by decide
theorem fldSwv : Statement .fldSwv := fun _ => by decide
theorem fldPrv : Statement .fldPrv := fun _ => by decide
theorem fldUsgo : Statement .fldUsgo := fun _ => by decide
theorem fldCgsm : Statement .fldCgsm := fun _ => by decide
theorem fldTrsd : Statement .fldTrsd := fun _ => by decide
theorem fldTrsn : Statement .fldTrsn := fun _ => by decide
theorem fldMode : Statement .fldMode := fun _ => by decide
theorem fldIo1 : Statement .fldIo1 := fun _ => by decide
theorem fldIo2 : Statement .fldIo2 := fun _ => by decide
theorem fldIo3 : Statement .fldIo3 := fun _ => by decide
theorem fldIo4 : Statement .fldIo4 := fun _ => by decide
theorem fldIo5 : Statement .fldIo5 := fun _ => by decide
theorem fldAn1 : Statement .fldAn1 := fun _ => by decide
theorem fldAn2 : Statement .fldAn2 := fun _ => by decide
theorem fldAn3 : Statement .fldAn3 := fun _ => by decide
theorem fldAn4 : Statement .fldAn4 := fun _ => by decide
theorem fldMile : Statement .fldMile := fun _ => by decide
theorem fldMpf : Statement .fldMpf := fun _ => by decide
theorem fldLgf : Statement .fldLgf := fun _ => by decide
theorem fldLgfd : Statement .fldLgfd := fun _ => by decide
theorem fldLgfh : Statement .fldLgfh := fun _ => by decide
theorem fldLgfm : Statement .fldLgfm := fun _ => by decide
theorem fldLocs : Statement .fldLocs := fun _ => by decide
theorem fldMod1 : Statement .fldMod1 := fun _ => by decide
theorem fldMod2 : Statement .fldMod2 := fun _ => by decide
theorem fldSats : Statement .fldSats := fun _ => by decide
theorem fldLonr : Statement .fldLonr := fun _ => by decide
theorem fldLatr : Statement .fldLatr := fun _ => by decide
theorem fldAlt : Statement .fldAlt := fun _ => by decide
theorem fldGspd : Statement .fldGspd := fun _ => by decide
theorem fldSdir : Statement .fldSdir := fun _ => by decide
theorem fldUsec : Statement .fldUsec := fun _ => by decide
theorem fldUmin : Statement .fldUmin := fun _ => by decide
theorem fldUhr : Statement .fldUhr := fun _ => by decide
theorem fldUday : Statement .fldUday := fun _ => by decide
theorem fldUmon : Statement .fldUmon := fun _ => by decide
theorem fldUyear : Statement .fldUyear := fun _ => by decide
theorem fldCkb : Statement .fldCkb := fun _ => by decide

end Sys2Proof.Laws.EncodeFits
end

