-- ==== Sys2Proof/Laws/Step.lean ====
section
/-! SUPPORT. What a step at the ports can do, said once for the machine and for every instance. -/

namespace Sys2Proof.Machine

/-- Everything a step can do (00_scope.md R5 to R7): nothing presented, a decoded command, a reserved word, `rst`. -/
theorem portStep_next {run : Instr → State → Host.Outcome State Fault Refusal} {s t : State}
    (h : portStep run s = .next t) :
    (s.inbox = [] ∧ t = idle s) ∨
    (∃ w rest i, s.inbox = .command w :: rest ∧ decode w = .ok i ∧ run i (accept s rest) = .next t) ∨
    (∃ w rest e, s.inbox = .command w :: rest ∧ decode w = .error e ∧ t = illegal w (accept s rest)) ∨
    (∃ rest, (s.inbox = .reset :: rest ∨ ∃ w, s.inbox = .resetDuring w :: rest) ∧ t = applyReset rest) := by
  unfold portStep at h
  split at h
  · next hb => exact .inl ⟨hb, (Host.Outcome.next.inj h).symm⟩
  · next w rest hb =>
    split at h
    · next i hd => exact .inr (.inl ⟨w, rest, i, hb, hd, h⟩)
    · next e hd => exact .inr (.inr (.inl ⟨w, rest, e, hb, hd, (Host.Outcome.next.inj h).symm⟩))
  · next rest hb => exact .inr (.inr (.inr ⟨rest, .inl hb, (Host.Outcome.next.inj h).symm⟩))
  · next w rest hb => exact .inr (.inr (.inr ⟨rest, .inr ⟨w, hb⟩, (Host.Outcome.next.inj h).symm⟩))

@[simp] theorem withState_params (a : Instance) (t : State) : (a.withState t).params = a.params := rfl
@[simp] theorem withState_state (a : Instance) (t : State) : (a.withState t).state = t := rfl

end Sys2Proof.Machine
end

