-- ==== Sys2Proof/Tests/Slice0.lean ====
section
/-! SUPPORT. Tests. Expected results are the spec's own: the encoding tables of 30_encoding.md and the vectors of
95_test_vectors.md (S<n>, V<n>), or counted by hand from a rule where a comment says so. Each `witness_<Name>` shows values
that meet the hypotheses of `Obligations.<Name>`, one conjunct per clause, at the ends of its ranges. -/

namespace Sys2Proof.Tests

open Sys2Proof Sys2Proof.Machine

/-! ## Well-formedness: one ill-formed term per check -/

theorem test_wf_off_refused : (Instr.getb 128 1).wellFormed = false := by decide
theorem test_wf_cnt_refused : (Instr.csum 0 128).wellFormed = false := by decide
theorem test_wf_getr_refused : (Instr.getr 128 1).wellFormed = false := by decide
theorem test_wf_invb_refused : (Instr.invb 0 128 .le).wellFormed = false := by decide
theorem test_wf_bfx_off_refused : (Instr.bfx 128 1 .be .lsb 0 1).wellFormed = false := by decide
theorem test_wf_bfx_cnt4_refused : (Instr.bfx 0 16 .be .lsb 0 1).wellFormed = false := by decide
theorem test_wf_bfx_pos_refused : (Instr.bfx 0 1 .be .lsb 64 1).wellFormed = false := by decide
theorem test_wf_bfx_wid_refused : (Instr.bfx 0 1 .be .lsb 0 64).wellFormed = false := by decide
theorem test_wf_largest_accepted : (Instr.bfx 127 15 .le .msb 63 63).wellFormed = true ∧ (Instr.getb 127 127).wellFormed = true := by
  decide

/-! ## Decoding: every constructor, its word written out from 30_encoding.md R51 to R57 and R60

The first word of each format is written bit by bit, its fields in the order of the format's table. -/

/-- Format Z, `OPC` 000001, 26 zeros (V17). -/
theorem test_decode_clr : decodeTableWord 32 (0b000001 * 2 ^ 26) = some .clr := by decide
/-- Format C, `OPC` 000010, `CH` 00110100 (V3). -/
theorem test_decode_push : decodeTableWord 32 (0b000010 * 2 ^ 26 + 0b00110100) = some (.push 0x34) := by decide
theorem test_decode_commit : decodeTableWord 32 0x0C000000 = some .commit := by decide
theorem test_decode_stat : decodeTableWord 32 0x10000000 = some .stat := by decide
/-- Format A, `OPC` 001000, `OFF` 0111110, `CNT` 0001000, `REV` 0 (V24). -/
theorem test_decode_getb : decodeTableWord 32 0b00100001111100001000000000000000 = some (.getb 62 8) := by decide
/-- Format A with `REV` 1: `OFF` 0000101, `CNT` 0000100 (V21). -/
theorem test_decode_getr : decodeTableWord 32 0b00100000001010000100100000000000 = some (.getr 5 4) := by decide
/-- Format B, `OPC` 001010, `OFF` 0100110, `CNT4` 0010, `REV` 1, `DIR` 1, `POS` 000101, `WID` 000101, 0 (V34). -/
theorem test_decode_bfx : decodeTableWord 32 0b00101001001100010110001010001010 = some (.bfx 38 2 .le .msb 5 5) := by decide
/-- The widest group, string order (V46). -/
theorem test_decode_bfx_wide : decodeTableWord 32 0x29F420FE = some (.bfx 62 8 .be .msb 1 63) := by decide
theorem test_decode_invb : decodeTableWord 32 0x2D604800 = some (.invb 44 4 .le) := by decide
theorem test_decode_invb_be : decodeTableWord 32 0x2C701000 = some (.invb 14 1 .be) := by decide
theorem test_decode_csum : decodeTableWord 32 0x40241000 = some (.csum 4 65) := by decide
theorem test_decode_edc : decodeTableWord 32 0x44000000 = some .edc := by decide
theorem test_decode_londd : decodeTableWord 32 0x60000000 = some .londd := by decide
theorem test_decode_latdd : decodeTableWord 32 0x64000000 = some .latdd := by decide
theorem test_decode_londms : decodeTableWord 32 0x68000000 = some .londms := by decide
theorem test_decode_latdms : decodeTableWord 32 0x6C000000 = some .latdms := by decide
/-- Format F, `OPC` 100000, 18 zeros, `SEL` 00000000 (V120). -/
theorem test_decode_fldSysc : decodeTableWord 32 (0b100000 * 2 ^ 26 + 0b00000000) = some .fldSysc := by decide
theorem test_decode_fldMtyp : decodeTableWord 32 0x80000001 = some .fldMtyp := by decide
theorem test_decode_fldUid : decodeTableWord 32 0x80000002 = some .fldUid := by decide
theorem test_decode_fldCcf : decodeTableWord 32 0x80000003 = some .fldCcf := by decide
theorem test_decode_fldMnum : decodeTableWord 32 0x80000004 = some .fldMnum := by decide
theorem test_decode_fldHwv : decodeTableWord 32 0x80000005 = some .fldHwv := by decide
theorem test_decode_fldHwmodel : decodeTableWord 32 0x80000006 = some .fldHwmodel := by decide
theorem test_decode_fldHwmodem : decodeTableWord 32 0x80000007 = some .fldHwmodem := by decide
theorem test_decode_fldSwv : decodeTableWord 32 0x80000008 = some .fldSwv := by decide
theorem test_decode_fldPrv : decodeTableWord 32 0x80000009 = some .fldPrv := by decide
theorem test_decode_fldUsgo : decodeTableWord 32 0x8000000A = some .fldUsgo := by decide
theorem test_decode_fldCgsm : decodeTableWord 32 0x8000000B = some .fldCgsm := by decide
theorem test_decode_fldTrsd : decodeTableWord 32 0x8000000C = some .fldTrsd := by decide
theorem test_decode_fldTrsn : decodeTableWord 32 0x8000000D = some .fldTrsn := by decide
theorem test_decode_fldMode : decodeTableWord 32 0x8000000E = some .fldMode := by decide
theorem test_decode_fldIo1 : decodeTableWord 32 0x8000000F = some .fldIo1 := by decide
theorem test_decode_fldIo2 : decodeTableWord 32 0x80000010 = some .fldIo2 := by decide
theorem test_decode_fldIo3 : decodeTableWord 32 0x80000011 = some .fldIo3 := by decide
theorem test_decode_fldIo4 : decodeTableWord 32 0x80000012 = some .fldIo4 := by decide
theorem test_decode_fldIo5 : decodeTableWord 32 0x80000013 = some .fldIo5 := by decide
theorem test_decode_fldAn1 : decodeTableWord 32 0x80000014 = some .fldAn1 := by decide
theorem test_decode_fldAn2 : decodeTableWord 32 0x80000015 = some .fldAn2 := by decide
theorem test_decode_fldAn3 : decodeTableWord 32 0x80000016 = some .fldAn3 := by decide
theorem test_decode_fldAn4 : decodeTableWord 32 0x80000017 = some .fldAn4 := by decide
theorem test_decode_fldMile : decodeTableWord 32 0x80000018 = some .fldMile := by decide
theorem test_decode_fldMpf : decodeTableWord 32 0x80000019 = some .fldMpf := by decide
theorem test_decode_fldLgf : decodeTableWord 32 0x8000001A = some .fldLgf := by decide
theorem test_decode_fldLgfd : decodeTableWord 32 0x8000001B = some .fldLgfd := by decide
theorem test_decode_fldLgfh : decodeTableWord 32 0x8000001C = some .fldLgfh := by decide
theorem test_decode_fldLgfm : decodeTableWord 32 0x8000001D = some .fldLgfm := by decide
theorem test_decode_fldLocs : decodeTableWord 32 0x8000001E = some .fldLocs := by decide
theorem test_decode_fldMod1 : decodeTableWord 32 0x8000001F = some .fldMod1 := by decide
theorem test_decode_fldMod2 : decodeTableWord 32 0x80000020 = some .fldMod2 := by decide
theorem test_decode_fldSats : decodeTableWord 32 0x80000021 = some .fldSats := by decide
theorem test_decode_fldLonr : decodeTableWord 32 0x80000022 = some .fldLonr := by decide
theorem test_decode_fldLatr : decodeTableWord 32 0x80000023 = some .fldLatr := by decide
theorem test_decode_fldAlt : decodeTableWord 32 0x80000024 = some .fldAlt := by decide
theorem test_decode_fldGspd : decodeTableWord 32 0x80000025 = some .fldGspd := by decide
theorem test_decode_fldSdir : decodeTableWord 32 0x80000026 = some .fldSdir := by decide
theorem test_decode_fldUsec : decodeTableWord 32 0x80000027 = some .fldUsec := by decide
theorem test_decode_fldUmin : decodeTableWord 32 0x80000028 = some .fldUmin := by decide
theorem test_decode_fldUhr : decodeTableWord 32 0x80000029 = some .fldUhr := by decide
theorem test_decode_fldUday : decodeTableWord 32 0x8000002A = some .fldUday := by decide
theorem test_decode_fldUmon : decodeTableWord 32 0x8000002B = some .fldUmon := by decide
theorem test_decode_fldUyear : decodeTableWord 32 0x8000002C = some .fldUyear := by decide
theorem test_decode_fldCkb : decodeTableWord 32 0x8000002D = some .fldCkb := by decide
/-- The illegal words of V170 to V179, and the words on either side of the last selector. -/
theorem test_decode_illegal :
    ([0x00000000, 0xFFFFFFFF, 0x04000001, 0x08000130, 0x20004001, 0x2860800B, 0x24000000, 0x8000002E, 0x80000100,
      0x40241800, 0x800000FF].map (decodeTableWord 32)) = List.replicate 11 none := by decide
/-- R59: out-of-range operand values are legal encodings (V30, V50). -/
theorem test_decode_out_of_range_operands :
    decodeTableWord 32 0x23FFF800 = some (.getr 127 127) ∧
    decodeTableWord 32 0x28648002 = some (.bfx 12 9 .be .lsb 0 1) := by decide

/-! ## The frames of 95_test_vectors.md -/

/-- The memory of a list of bytes from offset `a`. -/
def cells (a : Nat) (bs : List Byte) : Memory :=
  match bs with
  | [] => []
  | b :: rest => if b = 0 then cells (a + 1) rest else (a, b) :: cells (a + 1) rest

/-- The bytes of frame `F1`. -/
def f1Bytes : List Byte :=
  [0x41, 0x42, 0x43, 0x44, 0x0A, 0x01, 0x00, 0x00, 0x00, 0x12, 0x34, 0xFF, 0xA3, 0x21] ++
  [0x00, 0x7C, 0x16, 0x05, 0x20, 0x0E, 0x80, 0x01, 0x55, 0xAA, 0x0F, 0x7B, 0x00, 0xFF] ++
  [0x64, 0x40, 0xE2, 0x01, 0x01, 0x02, 0x03, 0x04, 0x05, 0x06, 0x6D, 0xBB, 0x01, 0x02] ++
  [0x04, 0x09, 0x85, 0xCD, 0x95, 0x00, 0x7B, 0x32, 0x6A, 0xFF, 0x40, 0xE2, 0x01, 0x00] ++
  [0xDA, 0x0A, 0x00, 0x00, 0x45, 0x0C, 0x3B, 0x1E, 0x0C, 0x0B, 0x0B, 0xE0, 0x07, 0x6D]

/-- A state with this frame committed. -/
def committed (bs : List Byte) : State :=
  { State.reset with frame := cells 0 bs, cnt := 140, valid := true }

/-- After `LOADHEX F1`. -/
def f1 : State := committed f1Bytes

/-- After `LOADHEX Z`. -/
def z : State := committed []

/-- `F1` with one more byte marked `BAD`. -/
def marked (a : Nat) : State := { f1 with bad := BitVec.twoPow 70 a }

/-- After `n` pushes of `'0'` on a cleared frame. -/
def loading (n : Nat) : State := { State.reset with cnt := BitVec.ofNat 8 n }

/-- Status and results of an outcome. -/
def response (o : Host.Outcome State Fault Refusal) : Option (Nat × Nat × Nat × Nat × Nat) :=
  match o with
  | .next t => some (t.err.toNat, t.r.r0.toNat, t.r.r1.toNat, t.r.r2.toNat, t.r.r3.toNat)
  | .fault _ => none
  | .refused _ => none

/-- Status and `R[0]` of an outcome. -/
def response0 (o : Host.Outcome State Fault Refusal) : Option (Nat × Nat) :=
  (response o).map fun a => (a.1, a.2.1)

/-- The state after an outcome. -/
def after (o : Host.Outcome State Fault Refusal) : State :=
  match o with
  | .next t => t
  | .fault _ => State.reset
  | .refused _ => State.reset

/-- The response to a word in a state. -/
def answer (s : State) (w : Nat) : Option (Nat × Nat × Nat × Nat × Nat) :=
  response (step (s.withFetchWord 32 w))

/-- The response to a word on `F1`. -/
def onF1 (w : Nat) : Option (Nat × Nat × Nat × Nat × Nat) := answer f1 w

/-! ## Frame control -/

theorem test_stat_reset : answer State.reset 0x10000000 = some (0, 0, 0, 0, 70) := by decide
theorem test_stat_f1 : onF1 0x10000000 = some (0, 140, 1, 0, 70) := by decide
/-- V3, V4: the high nibble first. -/
theorem test_push_two_digits :
    (after (exec (.push 0x31) (after (exec (.push 0x34) State.reset)))).frame = [(0, 0x41)] := by decide
/-- V7, V5: a character that is not a digit marks its byte; a small letter is a digit. -/
theorem test_push_marks_bad :
    (after (exec (.push 0x47) State.reset)).bad = 1 ∧ (after (exec (.push 0x66) State.reset)).frame = [(0, 0xF0)] := by decide
/-- V10, V2, V13. -/
theorem test_commit_counts : answer (loading 139) 0x0C000000 = some (4, 139, 0, 0, 0) ∧
    answer State.reset 0x0C000000 = some (3, 0, 0, 0, 0) ∧ answer (loading 141) 0x0C000000 = some (4, 141, 0, 0, 0) := by decide
/-- V14, V15, V16: a frame is committed, then locked. -/
theorem test_commit_locks : answer (loading 140) 0x0C000000 = some (0, 140, 0, 0, 0) ∧
    onF1 0x08000030 = some (5, 0, 0, 0, 0) ∧ onF1 0x0C000000 = some (5, 0, 0, 0, 0) := by decide
/-- V17. -/
theorem test_clr : after (exec .clr { f1 with eflags := 0xFE }) = { State.reset with rspValid := true } := by decide
/-- V11, V12: beyond 140 characters. -/
theorem test_push_over_length : answer (loading 140) 0x08000030 = some (0, 141, 0, 0, 0) ∧
    answer (loading 141) 0x08000030 = some (0, 141, 0, 0, 0) := by decide

/-! ## Accessor and checksum, on `F1` -/

/-- V20, V23, V24. -/
theorem test_getb : [0x20004000, 0x22281000, 0x21F08000].map onF1 =
    [some (0, 0x41424344, 32, 0, 0), some (0, 0x6D, 8, 0, 0), some (0, 0x3B1E0C0B0BE0076D, 64, 0, 0)] := by decide
/-- V26 to V29. -/
theorem test_getb_range : [0x20000000, 0x20009000, 0x22301000, 0x22108000].map onF1 =
    [some (6, 0, 0, 0, 0), some (6, 9, 0, 0, 0), some (6, 71, 0, 0, 0), some (6, 74, 0, 0, 0)] := by decide
/-- V21, V25, V30. -/
theorem test_getr : [0x20284800, 0x21F08800, 0x23FFF800].map onF1 =
    [some (0, 1, 32, 0, 0), some (0, 0x6D07E00B0B0C1E3B, 64, 0, 0), some (6, 127, 0, 0, 0)] := by decide
/-- V31 to V36, V43 to V46. -/
theorem test_bfx : [0x2860800A, 0x2860A006, 0x2931600A, 0x2931628A, 0x2931400C, 0x2931200A, 0x28490210, 0x28492210,
    0x29034060, 0x29F420FE].map onF1 =
    [some (0, 3, 5, 0, 0), some (0, 5, 3, 0, 0), some (0, 23, 5, 0, 0), some (0, 13, 5, 0, 0), some (0, 45, 6, 0, 0),
      some (0, 13, 5, 0, 0), some (0, 0x23, 8, 0, 0), some (0, 0x23, 8, 0, 0), some (0, 0x060504030201, 48, 0, 0),
      some (0, 0x3B1E0C0B0BE0076D, 63, 0, 0)] := by decide
/-- V47 to V51, V187, V188. -/
theorem test_bfx_range : [0x28608000, 0x2860820A, 0x28600002, 0x28648002, 0x2A290002, 0x2A2C9E7E, 0x2A290514].map onF1 =
    [some (6, 0, 0, 0, 0), some (6, 9, 0, 0, 0), some (6, 0, 0, 0, 0), some (6, 9, 0, 0, 0), some (6, 71, 0, 0, 0),
      some (6, 9, 0, 0, 0), some (6, 20, 0, 0, 0)] := by decide
/-- V52 to V57. -/
theorem test_invb : [0x2D604800, 0x2D804800, 0x2D804000, 0x2C701000, 0x2DF08000, 0x2C000000].map onF1 =
    [some (0, 0xFF6A327A, 32, 0, 0), some (0, 0x0095CD84, 32, 0, 0), some (0, 0x84CD9500, 32, 0, 0),
      some (0, 0xFF, 8, 0, 0), some (0, 0xC4E1F3F4F41FF892, 64, 0, 0), some (6, 0, 0, 0, 0)] := by decide
/-- V60 to V64, V66 to V69. -/
theorem test_csum : [0x40241000, 0x401C2000, 0x40046000, 0x40A83000, 0x40B02000, 0x40000000, 0x42300000, 0x42380000,
    0x42282000].map onF1 =
    [some (0, 109, 4205, 0, 0), some (0, 177, 4273, 0, 0), some (0, 228, 4580, 0, 0), some (0, 0, 256, 0, 0),
      some (0, 255, 255, 0, 0), some (0, 0, 0, 0, 0), some (0, 0, 0, 0, 0), some (6, 71, 0, 0, 0), some (6, 71, 0, 0, 0)] := by
  decide
/-- V70. -/
theorem test_edc : onF1 0x44000000 = some (0, 109, 109, 0, 0) := by decide
/-- V72, V170, V171 and the faults of V185, V186 on the reset state. -/
theorem test_illegal : [0x40241800, 0xFFFFFFFF].map onF1 =
    [some (1, 0x40241800, 0, 0, 0), some (1, 0xFFFFFFFF, 0, 0, 0)] := by decide
theorem test_illegal_before_state : [0, 0x22301000, 0x8000002E].map (answer State.reset) =
    [some (1, 0, 0, 0, 0), some (2, 0, 0, 0, 0), some (1, 0x8000002E, 0, 0, 0)] := by decide
/-- V189, V190: the bound before the mark, the lowest mark first. -/
theorem test_decode_error : answer (marked 69) 0x22282000 = some (6, 71, 0, 0, 0) ∧
    answer { f1 with bad := BitVec.twoPow 70 12 ||| BitVec.twoPow 70 10 } 0x40241000 = some (7, 10, 0, 0, 0) := by decide

/-! ## Coordinates and scaled fields, for the parameter set T -/

/-- The parameter set T of 95_test_vectors.md. -/
def setT : Params where
  kDeg := ⟨5729577951308232, 10 ^ 14, by decide, by decide⟩
  ckFirst := .byte4
  ddFrac := 9
  dmsInput := .unsignedRaw
  an1 := ⟨⟨1, 10, by decide⟩, .zero, 2⟩
  an2 := ⟨⟨1, 10, by decide⟩, .zero, 2⟩
  an3 := ⟨⟨1, 10, by decide⟩, .zero, 2⟩
  an4 := ⟨⟨1, 2, by decide⟩, ⟨-40, 1, by decide⟩, 1⟩
  altScale := ⟨1, 100, by decide, by decide⟩
  altFrac := 2
  spdScale := ⟨9, 250, by decide, by decide⟩
  dirScale := ⟨1, 100, by decide, by decide⟩
  dirFrac := 2
  fieldMap := [⟨"day", 38, 2, .le, .msb, 0, 5⟩]

theorem test_setT_legal : setT.legal = true := by decide
/-- P2. -/
theorem test_londd : response (ddWith setT .lon f1) = some (0, 562499998, 9817477, 9, 0x0095CD85) := by decide
/-- P2. -/
theorem test_latdd :
    response (ddWith setT .lat f1) = some (0, 0xFFFFFFFEB0B94FD8, 0xFFFFFFFFFF6A327B, 8, 0xFF6A327B) := by decide
/-- P2. -/
theorem test_londms : response (dmsWith setT .lon f1) = some (0, 5, 37, 3000, 1) := by decide
/-- P2. -/
theorem test_latdms : response (dmsWith setT .lat f1) = some (0, 2455, 12, 3597, 0) := by decide
/-- V81, V84 to V89: the sign test is on the top nibble. -/
theorem test_coord_edges : [0x00000001, 0x0FFFFFFF, 0x10000000, 0xED464F5F, 0xEFFFFFFF, 0xFFFFFFFF].map (coordDD setT .lon) =
    [57, 15380218643, 15380218700, 228083499228, 230703280450, -573] := by decide
/-- The four results as numbers. -/
def parts (r : Results) : Nat × Nat × Nat × Nat := (r.r0.toNat, r.r1.toNat, r.r2.toNat, r.r3.toNat)

/-- R124: 60.00 seconds without a carry, and the end of the hemisphere range. -/
theorem test_dms_no_carry : [0x12B9B0A1, 0x12B9B0A2].map (fun raw => parts (dmsResults setT .lon raw)) =
    [(179, 59, 6000, 1), (180, 0, 0, 0)] := by decide
/-- R126. -/
theorem test_dms_signed : parts (dmsResults { setT with dmsInput := .signedRaw } .lat 0xFF6A327B) = (5, 37, 3000, 4) := by
  decide
/-- V71. -/
theorem test_edc_other_range : response (edcWith { setT with ckFirst := .byte3 } f1) = some (0, 109, 177, 0, 0) := by decide
/-- V140, V143, and V143 on the all-zero frame. -/
theorem test_analog : response (fieldAnalog setT.an1 f1 25) = some (0, 123, 1230, 2, 0) ∧
    response (fieldAnalog setT.an4 f1 28) = some (0, 100, 100, 1, 0) ∧
    response (fieldAnalog setT.an4 z 28) = some (0, 0, 0xFFFFFFFFFFFFFE70, 1, 0) := by decide
/-- V156 to V158. -/
theorem test_scaled : response (fieldScaled setT.altScale 2 f1 52 4) = some (0, 123456, 123456, 2, 0) ∧
    response (fieldScaled setT.spdScale 3 f1 56 4) = some (0, 2778, 100008, 3, 0) ∧
    response (fieldScaled setT.dirScale 2 f1 60 2) = some (0, 3141, 3141, 2, 0) := by decide

/-! ## Field selectors, on `F1` (V120 to V165) -/

theorem test_fld_multi : [0x80000005, 0x8000001A].map onF1 = [some (0, 0xA3, 3, 5, 0), some (0, 0xBB6D, 23, 13, 45)] := by decide
theorem test_fld_identity : [Instr.fldSysc, .fldMtyp, .fldUid, .fldCcf, .fldMnum].map (fun i => response0 (exec i f1)) =
    [0x41424344, 10, 1, 0x1234, 255].map fun v => some (0, v) := by decide
theorem test_fld_versions : [Instr.fldHwmodel, .fldHwmodem, .fldSwv, .fldPrv].map (fun i => response0 (exec i f1)) =
    [3, 5, 0x21, 0].map fun v => some (0, v) := by decide
theorem test_fld_status : [Instr.fldUsgo, .fldCgsm, .fldTrsd, .fldTrsn, .fldMode].map (fun i => response0 (exec i f1)) =
    [0x7C, 0x16, 5, 32, 14].map fun v => some (0, v) := by decide
theorem test_fld_io : [Instr.fldIo1, .fldIo2, .fldIo3, .fldIo4, .fldIo5].map (fun i => response0 (exec i f1)) =
    [0x80, 0x01, 0x55, 0xAA, 0x0F].map fun v => some (0, v) := by decide
theorem test_fld_analog_raw : [Instr.fldAn1, .fldAn2, .fldAn3, .fldAn4].map (fun i => response0 (exec i f1)) =
    [123, 0, 255, 100].map fun v => some (0, v) := by decide
theorem test_fld_counters : [Instr.fldMile, .fldMpf, .fldLgfd, .fldLgfh, .fldLgfm, .fldLocs, .fldMod1, .fldMod2, .fldSats].map
    (fun i => response0 (exec i f1)) =
    [0x01E240, 0x060504030201, 23, 13, 45, 1, 2, 4, 9].map fun v => some (0, v) := by decide
theorem test_fld_position : [Instr.fldLonr, .fldLatr, .fldAlt, .fldGspd, .fldSdir].map (fun i => response0 (exec i f1)) =
    [0x0095CD85, 0xFF6A327B, 123456, 2778, 3141].map fun v => some (0, v) := by decide
theorem test_fld_utc : [Instr.fldUsec, .fldUmin, .fldUhr, .fldUday, .fldUmon, .fldUyear, .fldCkb].map
    (fun i => response0 (exec i f1)) = [59, 30, 12, 11, 11, 2016, 0x6D].map fun v => some (0, v) := by decide
/-- R63, R96: a `FIELD_MAP` entry read by name. -/
theorem test_flag_by_name : flagByName setT "day" = some (.bfx 38 2 .le .msb 0 5) ∧ flagByName setT "hour" = none := by decide

/-- R35, R63: each of the six UTC names is one selector. -/
theorem test_utc_accessor_names : (accessorCommands.filter fun a => decide (a.1 ∈ ["UTC seconds", "UTC year"])) =
    [("UTC seconds", [.fldUsec]), ("UTC year", [.fldUyear])] := by decide

/-! ## Text helpers (S2, S3, and the string-function vectors) -/

theorem test_reverse_byte_order : reverseByteOrder ['4', '0', 'E', '2', '0', '1'] = some ['0', '1', 'E', '2', '4', '0'] ∧
    reverseByteOrder [] = some [] := by decide
theorem test_left_pad : leftPad ['1', '0', '1'] 8 '0' = ['0', '0', '0', '0', '0', '1', '0', '1'] ∧
    leftPad ['7'] 3 'x' = ['x', 'x', '7'] ∧ leftPad ['2', '0', '1', '6'] 2 '0' = ['2', '0', '1', '6'] := by decide
theorem test_hex_numerals : hexToDecimal ['f', 'F'] = some 255 ∧ hexToDecimal ['0', 'G'] = none ∧
    decimalToHex 255 = ['F', 'F'] ∧ decimalToHex 0 = ['0'] := by decide
theorem test_binary : hexToBinary ['0', '5'] = some ['1', '0', '1'] ∧
    binaryToDecimal ['1', '0', '1', '1', '1'] = some 23 ∧ invertBits ['1', '0', '1'] = some ['0', '1', '0'] ∧ invertBits ['1', '2'] = none := by decide
set_option maxRecDepth 4000 in
/-- R80 on the characters of `Z`, and on a text that is too short. -/
theorem test_slice : slice (List.replicate 140 '0') 69 1 = some ['0', '0'] ∧ slice (List.replicate 140 '0') 70 1 = none ∧
    slice (List.replicate 139 '0') 0 1 = none := by
  decide
theorem test_ascii : asciiFromHex ['4', '1', '4', '2'] = some ['A', 'B'] := by decide

/-! ## Witnesses: the hypotheses of the statements can be met -/

/-- A state with these events presented. -/
def withEvents (s : State) (evs : List PortEvent) : State := { s with inbox := evs }

theorem witness_DecodeOfEncode : (Instr.bfx 127 15 .le .msb 63 63).wellFormed = true ∧
    (Instr.csum 0 127).wellFormed = true ∧ (Instr.push 0xFF).wellFormed = true := by decide
theorem witness_EncodeOfDecode : decode 0x2BFFFFFE = .ok (.bfx 127 15 .le .msb 63 63) ∧
    decode 0x8000002D = .ok .fldCkb := ⟨rfl, rfl⟩
/-- One word for each of R61 (a) to (d), and an operand-free format. -/
theorem witness_ReservedWordsRejected : reservedWord 0xFC000000 ∧ reservedWord 0x04000001 ∧ reservedWord 0x08000100 ∧
    reservedWord 0x20000001 ∧ reservedWord 0x28000001 ∧ reservedWord 0x40000800 ∧ reservedWord 0x8000002E ∧
    ¬ reservedWord 0x8000002D ∧ ¬ reservedWord 0x40000000 := by
  refine ⟨.inl ?_, .inr (.inl ?_), .inr (.inr (.inl ?_)), .inr (.inr (.inr (.inl ?_))), .inr (.inr (.inr (.inr (.inl ?_)))),
    .inr (.inr (.inr (.inr (.inr (.inl ?_))))), .inr (.inr (.inr (.inr (.inr (.inr ?_))))), ?_, ?_⟩ <;>
  simp [reservedWord, reservedOpcode, opcodesZ]
theorem witness_StepsWithoutCommand : (withEvents f1 [.reset]).inbox = .reset :: [] ∧
    (withEvents f1 [.resetDuring 0x08000030, .reset]).inbox = .resetDuring 0x08000030 :: [.reset] ∧ f1.inbox = [] :=
  ⟨rfl, rfl, rfl⟩
theorem witness_StepRunsDecoded : (withEvents f1 [.command 0x80000002]).inbox = .command 0x80000002 :: [] ∧
    decode 0x80000002 = .ok .fldUid := ⟨rfl, rfl⟩
theorem witness_PresentedWordRuns : (Instr.getb 127 127).wellFormed = true := by decide
theorem witness_ReservedWordFaults :
    (withEvents f1 [.command 0x05000000]).inbox = .command 0x05000000 :: [] ∧ reservedWord 0x05000000 :=
  ⟨rfl, by simp [reservedWord, reservedOpcode, opcodesZ]⟩
theorem witness_OneResponsePerCommand :
    (∃ t, step (withEvents f1 [.command 0, .reset]) = .next t ∧
      (withEvents f1 [.command 0, .reset]).inbox = .command 0 :: [.reset]) ∧
    (∃ t, step (withEvents f1 [.reset]) = .next t ∧ ∀ w rest, (withEvents f1 [.reset]).inbox ≠ .command w :: rest) ∧
    (∃ t, step f1 = .next t ∧ ∀ w rest, f1.inbox ≠ .command w :: rest) :=
  ⟨⟨_, rfl, rfl⟩, ⟨_, rfl, by intro w rest h; cases h⟩, ⟨_, rfl, by intro w rest h; cases h⟩⟩
theorem stateInv_f1 : stateInv f1 := by unfold stateInv; decide
/-- A loading state with an odd count, one digit in its open byte and one marked byte behind it. -/
def open3 : State := { State.reset with frame := [(0, 0x10), (1, 0xF0)], bad := 1, cnt := 3 }
theorem stateInv_open3 : stateInv open3 := by unfold stateInv; decide
theorem stateInv_over : stateInv (loading 141) := by unfold stateInv; decide
theorem stateInv_full : stateInv (loading 140) := by unfold stateInv; decide
theorem witness_StepKeepsInvariant :
    (stateInv f1 ∧ ∃ t, step (withEvents f1 [.command 0x44000000]) = .next t) ∧
    (stateInv open3 ∧ ∃ t, step (withEvents open3 [.command 0x08000046]) = .next t) ∧
    (stateInv (loading 141) ∧ ∃ t, step (withEvents (loading 141) [.command 0x0C000000]) = .next t) :=
  ⟨⟨stateInv_f1, _, rfl⟩, ⟨stateInv_open3, _, rfl⟩, ⟨stateInv_over, _, rfl⟩⟩
theorem witness_FaultsArePrecise : ∃ t, exec (.getb 70 1) f1 = .next t ∧ t.err ≠ 0 := ⟨_, rfl, by decide⟩
theorem witness_EflagsSticky :
    (∃ t, exec .stat { f1 with eflags := 0xFE } = .next t ∧ Instr.stat ≠ .clr ∧ t.err = 0) ∧
    (∃ t, exec (.getb 70 1) f1 = .next t ∧ Instr.getb 70 1 ≠ .clr ∧ t.err ≠ 0 ∧ 6 < 8) :=
  ⟨⟨_, rfl, by decide, rfl⟩, ⟨_, rfl, by decide, by decide, by decide⟩⟩
theorem witness_AccessorsNeedAFrame : isAccessor .edc = true ∧ (loading 140).valid = false := by decide
theorem witness_AccessorsChangeNoFrameState :
    (isAccessor (.csum 0 70) = true ∧ ∃ t, exec (.csum 0 70) f1 = .next t) ∧
    (isAccessor .fldCkb = true ∧ ∃ t, exec .fldCkb (marked 69) = .next t) := ⟨⟨rfl, _, rfl⟩, ⟨rfl, _, rfl⟩⟩
theorem witness_AccessorsSeeOnlyTheFrame : isAccessor .londd = true ∧
    f1.frame = ({ f1 with cnt := 3, eflags := 0xFE, err := 7 } : State).frame ∧
    f1.bad = ({ f1 with cnt := 3, eflags := 0xFE, err := 7 } : State).bad ∧
    f1.valid = ({ f1 with cnt := 3, eflags := 0xFE, err := 7 } : State).valid ∧
    (∃ t, exec .londd f1 = .next t) ∧ ∃ t, exec .londd { f1 with cnt := 3, eflags := 0xFE, err := 7 } = .next t :=
  ⟨rfl, rfl, rfl, rfl, ⟨_, rfl⟩, ⟨_, rfl⟩⟩
theorem witness_AccessorsCommute : (∀ j ∈ [Instr.edc, .getb 0 9], isAccessor j = true) ∧ isAccessor .fldMtyp = true ∧
    (∃ u t, execAll [.edc, .getb 0 9] f1 = .next u ∧ exec .fldMtyp u = .next t) ∧ ∃ t, exec .fldMtyp f1 = .next t :=
  ⟨by decide, rfl, ⟨_, _, rfl, rfl⟩, ⟨_, rfl⟩⟩
theorem witness_CommittedFrameIsImmutable :
    f1.valid = true ∧ (∃ t, step (withEvents f1 [.command 0x08000030]) = .next t) ∧
    (∀ rest, (withEvents f1 [.command 0x08000030]).inbox ≠ .reset :: rest) ∧
    (∀ w rest, (withEvents f1 [.command 0x08000030]).inbox ≠ .resetDuring w :: rest) ∧
    (∀ rest, (withEvents f1 [.command 0x08000030]).inbox ≠ .command 0x04000000 :: rest) := by
  refine ⟨rfl, ⟨_, rfl⟩, ?_, ?_, ?_⟩
  · intro rest h; cases h
  · intro w rest h; cases h
  · intro rest h
    simp [withEvents] at h
theorem witness_LifeCycle :
    (stateInv State.reset ∧ phase State.reset = .cleared ∧ ∃ t, exec (.push 0x30) State.reset = .next t) ∧
    (stateInv (loading 140) ∧ phase (loading 140) = .loading ∧ (loading 140).cnt.toNat = 140 ∧
      ∃ t, exec .commit (loading 140) = .next t) ∧
    (stateInv open3 ∧ ¬ (phase open3 = .loading ∧ open3.cnt.toNat = 140) ∧ ∃ t, exec .commit open3 = .next t) ∧
    (stateInv f1 ∧ phase f1 = .committed ∧ ∃ t, exec (.push 0x30) f1 = .next t) ∧
    (∃ t, exec .clr f1 = .next t) ∧
    (∃ t, exec .edc f1 = .next t ∧ isAccessor .edc = true ∧ t.err = 0) :=
  ⟨⟨by unfold stateInv; decide, rfl, _, rfl⟩, ⟨stateInv_full, rfl, rfl, _, rfl⟩, ⟨stateInv_open3, by decide, _, rfl⟩,
    ⟨stateInv_f1, rfl, _, rfl⟩, ⟨_, rfl⟩, ⟨_, rfl, rfl, rfl⟩⟩
/-- The ends of the three ranges of R33, and a code between them. -/
theorem witness_HexDigitValues : [0x2F, 0x30, 0x39, 0x3A, 0x41, 0x46, 0x47, 0x61, 0x66, 0x67].map hexDigit =
    [none, some 0, some 9, none, some 10, some 15, none, some 10, some 15, none] := by decide
theorem witness_PushAppendsCharacter : f1.valid = true ∧
    ((loading 140).valid = false ∧ 140 ≤ (loading 140).cnt.toNat) ∧
    (State.reset.valid = false ∧ State.reset.cnt.toNat < 140 ∧ Memory.wf State.reset.frame = true ∧
      State.reset.cnt.toNat % 2 = 0) ∧
    ((loading 139).valid = false ∧ (loading 139).cnt.toNat < 140 ∧ Memory.wf (loading 139).frame = true ∧
      (loading 139).cnt.toNat % 2 = 1) := by decide
theorem witness_CommitChecksLength : f1.valid = true ∧ (State.reset.valid = false ∧ State.reset.cnt = 0) ∧
    ((loading 139).valid = false ∧ (loading 139).cnt ≠ 0 ∧ (loading 139).cnt ≠ 140) ∧
    ((loading 141).valid = false ∧ (loading 141).cnt ≠ 0 ∧ (loading 141).cnt ≠ 140) ∧
    ((loading 140).valid = false ∧ (loading 140).cnt = 140) := by decide
theorem witness_LoadHexLoadsFrame : (List.replicate 140 (0x30 : Byte)).length = 140 := List.length_replicate
theorem witness_LoadHexRejectsWrongLength : ([] : List Byte).length ≠ 140 ∧
    (List.replicate 139 (0x30 : Byte)).length ≠ 140 ∧ (List.replicate 141 (0x30 : Byte)).length ≠ 140 := by
  simp only [List.length_replicate]
  decide
theorem witness_MemReadRule : 70 < 70 + 1 ∧ (69 + 1 ≤ 70 ∧ firstMarked (marked 69) 69 1 0) ∧
    (0 + 70 ≤ 70 ∧ firstMarked (marked 69) 0 70 69) ∧ (0 + 70 ≤ 70 ∧ readable f1 0 70) ∧
    (70 + 0 ≤ 70 ∧ readable f1 70 0) := by decide
theorem witness_BitGroupBits : (1 ≤ 1 ∧ 0 + 1 ≤ 8) ∧ (1 ≤ 1 ∧ 63 + 1 ≤ 64) ∧ (1 ≤ 64 ∧ 0 + 64 ≤ 64) := by decide
/-- A tie: 1/2 goes to 1, -1/2 to -1. -/
theorem witness_RndDivNearest : 0 < 2 ∧ rndDiv 1 2 = 1 ∧ rndDiv (-1) 2 = -1 ∧ 2 * |(1 : Int) - 2 * 1| = 2 := by decide
theorem witness_ScaleFxRoundsOnce : scaleFx 1 ⟨1, 2, by decide⟩ .zero 0 = 1 ∧
    |((1 : ℚ) * (1 / 2) + 0 / 1) * 10 ^ 0 - 1| = 1 / 2 := by
  constructor
  · decide
  · norm_num [abs_of_neg]
/-- The largest operands the fields admit, and every clause of `rangeFaults` at a boundary. -/
theorem witness_GetbReadsStringOrder : (127 < 128 ∧ f1.valid = true ∧ State.reset.valid = false) ∧
    (1 ≤ 1 ∧ 69 + 1 ≤ 70 ∧ readable f1 69 1) ∧ (8 ≤ 8 ∧ 62 + 8 ≤ 70 ∧ readable f1 62 8) ∧ (8 < 9 ∧ 70 < 70 + 1 ∧ 70 < 63 + 8) ∧
    firstMarked (marked 62) 62 8 0 ∧ firstMarked (marked 69) 62 8 7 ∧ (marked 69).valid = true := by decide
theorem witness_GetrReadsReversedOrder : (127 < 128 ∧ f1.valid = true ∧ State.reset.valid = false) ∧
    (1 ≤ 1 ∧ 0 + 1 ≤ 70 ∧ readable f1 0 1) ∧ (8 ≤ 8 ∧ 0 + 8 ≤ 70 ∧ readable f1 0 8) ∧ (8 < 9 ∧ 70 < 69 + 2) ∧
    firstMarked (marked 0) 0 8 0 ∧ firstMarked (marked 7) 0 8 7 ∧ (marked 7).valid = true := by decide
theorem witness_BfxExtractsGroup : (127 < 128 ∧ 15 < 16 ∧ 63 < 64 ∧ State.reset.valid = false ∧ f1.valid = true) ∧
    (8 < 9 ∧ 8 * 1 < 4 + 5) ∧ (1 ≤ 8 ∧ 8 ≤ 8 ∧ 1 ≤ 63 ∧ 1 + 63 ≤ 8 * 8 ∧ 70 < 63 + 8) ∧
    (62 + 8 ≤ 70 ∧ firstMarked (marked 69) 62 8 7) ∧ (62 + 8 ≤ 70 ∧ readable f1 62 8) := by decide
theorem witness_InvbComplementsRange : (127 < 128 ∧ f1.valid = true ∧ State.reset.valid = false) ∧
    (1 ≤ 1 ∧ 69 + 1 ≤ 70 ∧ readable f1 69 1) ∧ (8 ≤ 8 ∧ 62 + 8 ≤ 70 ∧ readable f1 62 8) ∧ (8 < 9 ∧ 70 < 63 + 8) ∧
    firstMarked (marked 62) 62 8 0 ∧ firstMarked (marked 69) 62 8 7 ∧ (marked 69).valid = true := by decide
theorem witness_NamedGroupsAreBfxForms : (Instr.fldLgfm, Instr.bfx 38 2 .le .msb 10 6) ∈ namedGroups := by decide
theorem witness_ChecksumIsSumMod256 : ([0xFF, 0x01] : List Byte).Perm [0x01, 0xFF] := .swap ..
theorem witness_CsumSumsRange : (127 < 128 ∧ f1.valid = true ∧ State.reset.valid = false) ∧
    (0 + 70 ≤ 70 ∧ readable f1 0 70) ∧ (70 + 0 ≤ 70 ∧ readable f1 70 0) ∧ (70 < 71 + 0 ∧ 70 < 69 + 2) ∧
    firstMarked (marked 69) 0 70 69 ∧ firstMarked (marked 0) 0 70 0 ∧ (marked 0).valid = true := by decide
theorem witness_EdcShowsBothChecksums : (f1.valid = true ∧ readable f1 4 65 ∧ readable f1 69 1 ∧ readable f1 3 66) ∧
    State.reset.valid = false ∧ (firstMarked (marked 4) 4 65 0 ∧ firstMarked (marked 68) 4 65 64) ∧
    ((marked 69).valid = true ∧ readable (marked 69) 4 65 ∧ (marked 69).bad.getLsbD 69 = true) ∧
    firstMarked (marked 3) 3 66 0 ∧ firstMarked (marked 68) 3 66 65 ∧ readable (marked 69) 3 66 ∧
    ({ setT with ckFirst := .byte3 } : Params).ckFirst = .byte3 ∧ setT.ckFirst ≠ .byte3 := by decide
theorem witness_SignTestOnTopNibble : (0xEFFFFFFF < 2 ^ 32 ∧ 0xEFFFFFFF < 0xF0000000) ∧
    (0xF0000000 < 2 ^ 32 ∧ 0xF0000000 ≤ 0xF0000000) ∧ (0xFFFFFFFF < 2 ^ 32 ∧ 0xF0000000 ≤ 0xFFFFFFFF) := by decide
theorem witness_LongitudeAsymmetry : (1 ≤ 1 ∧ 1 ≤ 2 ^ 28) ∧ (1 ≤ 2 ^ 28 ∧ 2 ^ 28 ≤ 2 ^ 28) := by decide
/-- The three clauses of `readsField` for the fields at 44 and 48: a readable field, no frame, and a mark on the first or the
last byte. -/
theorem witness_DecimalDegreesResults : f1.valid = true ∧ readable f1 44 4 ∧ readable f1 48 4 ∧ State.reset.valid = false ∧
    (marked 44).valid = true ∧ firstMarked (marked 44) 44 4 0 ∧ firstMarked (marked 47) 44 4 3 ∧
    firstMarked (marked 48) 48 4 0 ∧ firstMarked (marked 51) 48 4 3 := by decide
theorem witness_DmsResults : f1.valid = true ∧ readable f1 44 4 ∧ readable f1 48 4 ∧ State.reset.valid = false ∧
    (marked 47).valid = true ∧ firstMarked (marked 44) 44 4 0 ∧ firstMarked (marked 47) 44 4 3 ∧
    firstMarked (marked 48) 48 4 0 ∧ firstMarked (marked 51) 48 4 3 := by decide
theorem witness_HeaderSelectors : f1.valid = true ∧ State.reset.valid = false ∧ readable f1 0 4 ∧ readable f1 5 4 ∧
    readable f1 19 1 ∧ firstMarked (marked 0) 0 4 0 ∧ firstMarked (marked 3) 0 4 3 ∧ firstMarked (marked 8) 5 4 3 ∧
    firstMarked (marked 10) 9 2 1 ∧ firstMarked (marked 19) 19 1 0 := by decide
theorem witness_HardwareSelectors : f1.valid = true ∧ State.reset.valid = false ∧ readable f1 12 1 ∧
    firstMarked (marked 12) 12 1 0 := by decide
theorem witness_StatusSelectors : f1.valid = true ∧ State.reset.valid = false ∧ readable f1 20 1 ∧ readable f1 43 1 ∧
    firstMarked (marked 20) 20 1 0 ∧ firstMarked (marked 43) 43 1 0 := by decide
theorem witness_AnalogSelectors : f1.valid = true ∧ State.reset.valid = false ∧ readable f1 25 1 ∧ readable f1 28 1 ∧
    firstMarked (marked 25) 25 1 0 ∧ firstMarked (marked 28) 28 1 0 := by decide
theorem witness_PositionSelectors : f1.valid = true ∧ State.reset.valid = false ∧ readable f1 29 3 ∧ readable f1 32 6 ∧
    readable f1 69 1 ∧ firstMarked (marked 29) 29 3 0 ∧ firstMarked (marked 37) 32 6 5 ∧ firstMarked (marked 68) 67 2 1 ∧
    firstMarked (marked 69) 69 1 0 := by decide
theorem witness_LastGpsFixSelectors : f1.valid = true ∧ State.reset.valid = false ∧ readable f1 38 2 ∧
    firstMarked (marked 38) 38 2 0 ∧ firstMarked (marked 39) 38 2 1 := by decide
theorem witness_ScaledSelectors : f1.valid = true ∧ State.reset.valid = false ∧ readable f1 52 4 ∧ readable f1 56 4 ∧
    readable f1 60 2 ∧ firstMarked (marked 52) 52 4 0 ∧ firstMarked (marked 59) 56 4 3 ∧
    firstMarked (marked 61) 60 2 1 := by decide
/-- Every field of the layout can be read on `F1`. -/
theorem witness_LayoutCoversFrame : f1.valid = true ∧ ∀ f ∈ layout, readable f1 f.off f.bytes := by decide
theorem witness_ZeroFrameReadsZero : z.valid = true ∧ z.bad = 0 ∧ (∀ a, a < 70 → byteAt z a = 0) ∧
    opcode .fldSysc = 0x20 ∧ opcode .fldLgfm = 0x20 ∧ opcode .fldHwmodel = 0x20 ∧
    (⟨"flag", 20, 5, .be, .msb, 39, 1⟩ : FieldMapEntry).legal = true :=
  ⟨rfl, rfl, fun _ _ => rfl, rfl, rfl, rfl, by decide⟩
theorem witness_ReverseByteOrderLaws : ['4', '0', 'e', '2'].length % 2 = 0 ∧ ['4', '0', 'e', '2'] ≠ [] ∧
    byteGroups ['4', '0', 'e', '2'] = some [('4', '0'), ('e', '2')] ∧
    groupBytes [('4', '0'), ('e', '2')] = some [0x40, 0xE2] := by decide
theorem witness_InvertBitsAndLeftPad : binaryToDecimal ['0', '1', '1', '0'] = some 6 := by decide
theorem witness_HexNumeralRoundTrip : (255 : Nat) ≠ 0 := by decide
/-- Two instances of different parameters (`CK_FIRST` 4 and 3): `EDC` in the second gives the checksum of V71. -/
def pair : List Instance :=
  [⟨setT, test_setT_legal, f1⟩, ⟨{ setT with ckFirst := .byte3 }, by decide, withEvents f1 [.command 0x44000000]⟩]
theorem test_edc_in_second_instance : (stepInstance 1 pair).map (fun a => a.state.r.r1) = [0, 177] := by decide
theorem witness_InstancesShareNothing : (0 : Nat) ≠ 1 ∧ ∃ a t, pair[1]? = some a ∧ stepIn a.params a.state = .next t :=
  ⟨by decide, _, _, rfl, rfl⟩
/-- A decoded command and a reserved word on the port, a command that reads no parameter, and for the fields of the
parameter-reading commands a readable one, no frame, and a mark on the first or the last byte. -/
theorem witness_InstanceReadsItsParameters :
    ((withEvents f1 [.command 0x60000000]).inbox = .command 0x60000000 :: [] ∧ decode 0x60000000 = .ok .londd) ∧
    (∀ (w : CmdWord) (rest : List PortEvent) (i : Instr),
      (withEvents f1 [.command 0]).inbox = .command w :: rest → decode w ≠ .ok i) ∧
    Instr.fldCkb ∉ [Instr.edc, .londd, .latdd, .londms, .latdms, .fldAn1, .fldAn2, .fldAn3, .fldAn4, .fldAlt, .fldGspd,
      .fldSdir] ∧
    (f1.valid = true ∧ readable f1 44 4 ∧ readable f1 48 4 ∧ readable f1 25 1 ∧ readable f1 26 1 ∧ readable f1 27 1 ∧
      readable f1 28 1 ∧ readable f1 52 4 ∧ readable f1 56 4 ∧ readable f1 60 2) ∧ State.reset.valid = false ∧
    ((marked 44).valid = true ∧ firstMarked (marked 44) 44 4 0 ∧ firstMarked (marked 51) 48 4 3 ∧
      firstMarked (marked 25) 25 1 0 ∧ firstMarked (marked 26) 26 1 0 ∧ firstMarked (marked 27) 27 1 0 ∧
      firstMarked (marked 28) 28 1 0 ∧ firstMarked (marked 55) 52 4 3 ∧ firstMarked (marked 56) 56 4 0 ∧
      firstMarked (marked 61) 60 2 1) := by
  refine ⟨⟨rfl, rfl⟩, ?_, by decide, by decide, rfl, by decide⟩
  intro w rest i h
  cases h
  intro h
  cases h

end Sys2Proof.Tests
end

section
/-! SUPPORT. Proofs of the statements of 00_scope.md: the step at the ports (R5 to R7), and the rounding of R8 and R9. -/

namespace Sys2Proof.Proofs.Scope

open Sys2Proof Sys2Proof.Machine

/-! ### A word's fields give back the command (30_encoding.md R50 to R60) -/

@[simp] theorem decodeOrder_bit (rev : ByteOrder) : decodeOrder rev.bit = rev := by
  cases rev <;> rfl

@[simp] theorem decodeDir_bit (dir : BitDir) : decodeDir dir.bit = dir := by
  cases dir <;> rfl

theorem orderBit_lt_two (rev : ByteOrder) : rev.bit < 2 := by
  cases rev <;> decide

theorem dirBit_lt_two (dir : BitDir) : dir.bit < 2 := by
  cases dir <;> decide

/-- A well-formed command's word has its opcode in bits 31:26 (R50, R57). -/
theorem wordField_encode_opcode {i : Instr} (hfits : Laws.EncodeFits.Statement i) (h : i.wellFormed = true) :
    wordField (encode i) 26 6 = opcode i := by
  obtain ⟨hlt, hop⟩ := hfits h
  rw [encode, wordField_ofNat, ← hop]
  omega

/-! The arms of the decoder with operands, by the opcode of the word (R57). -/

theorem decode_of_opcode_push {w : CmdWord} (h : wordField w 26 6 = 0x02) : decode w = decodeC w := by
  simp only [decode, h]

theorem decode_of_opcode_get {w : CmdWord} (h : wordField w 26 6 = 0x08) : decode w = decodeA w decodeGet := by
  simp only [decode, h]

theorem decode_of_opcode_bfx {w : CmdWord} (h : wordField w 26 6 = 0x0A) : decode w = decodeB w := by
  simp only [decode, h]

theorem decode_of_opcode_invb {w : CmdWord} (h : wordField w 26 6 = 0x0B) :
    decode w = decodeA w fun off cnt rev => .ok (.invb off cnt rev) := by
  simp only [decode, h]

theorem decode_of_opcode_csum {w : CmdWord} (h : wordField w 26 6 = 0x10) : decode w = decodeA w decodeCsum := by
  simp only [decode, h]

/-- The number of a word of format A (R53). -/
def formatA (op off cnt : Nat) (rev : ByteOrder) : Nat :=
  op * 2 ^ 26 + (off * 2 ^ 19 + cnt * 2 ^ 12 + rev.bit * 2 ^ 11)

/-- `decodeA` reads the operands of format A back, whatever the opcode. -/
theorem decodeA_formatA (op : Nat) {off cnt : Nat} (rev : ByteOrder)
    (mk : Nat → Nat → ByteOrder → Except Illegal Instr) (h : rangeFits off cnt = true) :
    decodeA (BitVec.ofNat 32 (formatA op off cnt rev)) mk = mk off cnt rev := by
  simp only [rangeFits, Bool.and_eq_true, decide_eq_true_eq] at h
  obtain ⟨hoff, hcnt⟩ := h
  have hrev := orderBit_lt_two rev
  generalize hw : BitVec.ofNat 32 (formatA op off cnt rev) = w
  rw [formatA] at hw
  have hzero : wordField w 0 11 = 0 := by rw [← hw, wordField_ofNat]; omega
  have hOff : wordField w 19 7 = off := by rw [← hw, wordField_ofNat]; omega
  have hCnt : wordField w 12 7 = cnt := by rw [← hw, wordField_ofNat]; omega
  have hRev : wordField w 11 1 = rev.bit := by rw [← hw, wordField_ofNat]; omega
  rw [decodeA, if_pos hzero, hOff, hCnt, hRev, decodeOrder_bit]

theorem encodeNat_getb (off cnt : Nat) : encodeNat (.getb off cnt) = formatA 0x08 off cnt .be := by
  simp only [encodeNat, formatA, ByteOrder.bit]; omega

theorem encodeNat_getr (off cnt : Nat) : encodeNat (.getr off cnt) = formatA 0x08 off cnt .le := by
  simp only [encodeNat, formatA, ByteOrder.bit]; omega

theorem encodeNat_invb (off cnt : Nat) (rev : ByteOrder) :
    encodeNat (.invb off cnt rev) = formatA 0x0B off cnt rev := by
  simp only [encodeNat, formatA]; omega

theorem encodeNat_csum (off cnt : Nat) : encodeNat (.csum off cnt) = formatA 0x10 off cnt .be := by
  simp only [encodeNat, formatA, ByteOrder.bit]; omega

theorem decode_encode_getb {off cnt : Nat} (h : rangeFits off cnt = true) :
    decode (encode (.getb off cnt)) = .ok (.getb off cnt) := by
  rw [decode_of_opcode_get (wordField_encode_opcode (Laws.EncodeFits.getb off cnt) h), encode, encodeNat_getb,
    decodeA_formatA _ _ _ h, decodeGet]

theorem decode_encode_getr {off cnt : Nat} (h : rangeFits off cnt = true) :
    decode (encode (.getr off cnt)) = .ok (.getr off cnt) := by
  rw [decode_of_opcode_get (wordField_encode_opcode (Laws.EncodeFits.getr off cnt) h), encode, encodeNat_getr,
    decodeA_formatA _ _ _ h, decodeGet]

theorem decode_encode_invb {off cnt : Nat} (rev : ByteOrder) (h : rangeFits off cnt = true) :
    decode (encode (.invb off cnt rev)) = .ok (.invb off cnt rev) := by
  rw [decode_of_opcode_invb (wordField_encode_opcode (Laws.EncodeFits.invb off cnt rev) h), encode, encodeNat_invb,
    decodeA_formatA _ _ _ h]

theorem decode_encode_csum {off cnt : Nat} (h : rangeFits off cnt = true) :
    decode (encode (.csum off cnt)) = .ok (.csum off cnt) := by
  rw [decode_of_opcode_csum (wordField_encode_opcode (Laws.EncodeFits.csum off cnt) h), encode, encodeNat_csum,
    decodeA_formatA _ _ _ h, decodeCsum]

/-- Format B (R54): the six operand fields of `BFX` come back. -/
theorem decode_encode_bfx {off cnt4 pos wid : Nat} {rev : ByteOrder} {dir : BitDir}
    (h : (Instr.bfx off cnt4 rev dir pos wid).wellFormed = true) :
    decode (encode (.bfx off cnt4 rev dir pos wid)) = .ok (.bfx off cnt4 rev dir pos wid) := by
  have hop := wordField_encode_opcode (Laws.EncodeFits.bfx off cnt4 rev dir pos wid) h
  simp only [Instr.wellFormed, Bool.and_eq_true, decide_eq_true_eq] at h
  obtain ⟨⟨⟨hoff, hcnt⟩, hpos⟩, hwid⟩ := h
  have hrev := orderBit_lt_two rev
  have hdir := dirBit_lt_two dir
  generalize hw : encode (.bfx off cnt4 rev dir pos wid) = w at hop
  rw [encode, encodeNat] at hw
  have hzero : wordField w 0 1 = 0 := by rw [← hw, wordField_ofNat]; omega
  have hOff : wordField w 19 7 = off := by rw [← hw, wordField_ofNat]; omega
  have hCnt : wordField w 15 4 = cnt4 := by rw [← hw, wordField_ofNat]; omega
  have hRev : wordField w 14 1 = rev.bit := by rw [← hw, wordField_ofNat]; omega
  have hDir : wordField w 13 1 = dir.bit := by rw [← hw, wordField_ofNat]; omega
  have hPos : wordField w 7 6 = pos := by rw [← hw, wordField_ofNat]; omega
  have hWid : wordField w 1 6 = wid := by rw [← hw, wordField_ofNat]; omega
  rw [decode_of_opcode_bfx hop, decodeB, if_pos hzero, hOff, hCnt, hRev, hDir, hPos, hWid, decodeOrder_bit,
    decodeDir_bit]

/-- Format C (R52): the character of `PUSH` comes back. -/
theorem decode_encode_push (ch : Byte) : decode (encode (.push ch)) = .ok (.push ch) := by
  have hop := wordField_encode_opcode (Laws.EncodeFits.push ch) rfl
  have hch := ch.isLt
  generalize hw : encode (.push ch) = w at hop
  rw [encode, encodeNat] at hw
  have hzero : wordField w 8 18 = 0 := by rw [← hw, wordField_ofNat]; omega
  have hCh : wordField w 0 8 = ch.toNat := by rw [← hw, wordField_ofNat]; omega
  rw [decode_of_opcode_push hop, decodeC, if_pos hzero, hCh, BitVec.ofNat_toNat, BitVec.setWidth_eq]

/-- The decoder reads back every command the encoding can spell. The word of a command without operands is a literal,
which the decoder evaluates. -/
theorem decode_encode {i : Instr} (h : i.wellFormed = true) : decode (encode i) = .ok i := by
  cases i with
  | push ch => exact decode_encode_push ch
  | getb off cnt => exact decode_encode_getb h
  | getr off cnt => exact decode_encode_getr h
  | invb off cnt rev => exact decode_encode_invb rev h
  | csum off cnt => exact decode_encode_csum h
  | bfx off cnt4 rev dir pos wid => exact decode_encode_bfx h
  | _ => rfl

/-! ### The step at the ports -/

/-- A step with a decodable word on the port is `exec` of its command (R5, R6). -/
theorem step_command_ok {s : State} {w : CmdWord} {rest : List PortEvent} {i : Instr}
    (hbox : s.inbox = .command w :: rest) (hdec : decode w = .ok i) : step s = exec i (accept s rest) := by
  simp only [step, portStep, hbox, hdec]

/-- Presenting a word and taking it from the port again changes nothing. -/
theorem accept_presentWord (s : State) (w : CmdWord) : accept (presentWord s w) s.inbox = s := rfl

/-- A 32-bit word goes to the port as it is (log 21). -/
theorem withFetchWord_toNat (s : State) (w : CmdWord) : s.withFetchWord 32 w.toNat = presentWord s w := by
  rw [State.withFetchWord, Nat.mod_eq_of_lt w.isLt, BitVec.ofNat_toNat, BitVec.setWidth_eq]

/-- Settles O7: taking the word from the port is `accept`. -/
theorem stepRunsDecoded : Obligations.StepRunsDecoded := by
  intro s w rest i hbox hdec
  exact step_command_ok hbox hdec

/-- Settles O8: the presented word decodes to its command, and taking it gives `s` back. -/
theorem presentedWordRuns : Obligations.PresentedWordRuns := by
  intro s i hwf
  rw [withFetchWord_toNat, step_command_ok (presentWord_inbox s _) (decode_encode hwf), accept_presentWord]

/-- Every command responds, and takes none of the host's further events. -/
theorem exec_responds {i : Instr} {s t : State} (h : exec i s = .next t) :
    t.rspValid = true ∧ t.inbox = s.inbox := by
  rcases exec_next_all h with ⟨-, rfl⟩ | ⟨e, -, rfl⟩ | ⟨-, rs, rfl⟩ | ⟨ch, -, -, -, rfl⟩ | ⟨ch, -, -, -, rfl⟩ |
    ⟨-, -, -, rfl⟩
  · exact ⟨rfl, rfl⟩
  · exact ⟨rfl, rfl⟩
  · exact ⟨rfl, rfl⟩
  · exact ⟨rfl, rfl⟩
  · exact ⟨rfl, loadChar_inbox ch s⟩
  · exact ⟨rfl, rfl⟩

/-- Settles O11, along the four things a step can do: a command word, run or reserved, responds; an idle step and `rst`
do not. -/
theorem oneResponsePerCommand : Obligations.OneResponsePerCommand := by
  intro s t h
  rcases portStep_next h with ⟨hbox, rfl⟩ | ⟨w, rest, i, hbox, -, hrun⟩ | ⟨w, rest, e, hbox, -, rfl⟩ |
    ⟨rest, hbox | ⟨w, hbox⟩, rfl⟩
  · simp [hbox]
  · obtain ⟨hrsp, hin⟩ := exec_responds hrun
    simp [hbox, hrsp, hin]
  · simp [hbox, illegal]
  · simp [hbox]
  · simp [hbox]

/-! ### Rounding (R8, R9) -/

/-- The quotient that `rnd_div` gives a magnitude `m`, before the sign (R8). -/
def halfUp (m : Int) (d : Nat) : Int :=
  (2 * m + d) / (2 * d)

/-- The nearest multiple of `d`, a tie upward: `m` is at most half of `d` below it and less than half above it. -/
theorem halfUp_bounds (m : Int) {d : Nat} (hd : 0 < d) :
    -(d : Int) ≤ 2 * (m - d * halfUp m d) ∧ 2 * (m - d * halfUp m d) < d := by
  have hd2 : (0 : Int) < 2 * d := by omega
  have hlow : 2 * d * halfUp m d ≤ 2 * m + d := Int.mul_ediv_self_le hd2.ne'
  have hhigh : 2 * m + d < 2 * d * halfUp m d + 2 * d := Int.lt_mul_ediv_self_add hd2
  constructor <;> linarith

theorem rndDiv_eq_sign_mul_halfUp (n : Int) (d : Nat) : rndDiv n d = n.sign * halfUp |n| d := by
  rw [rndDiv, halfUp]
  push_cast
  rfl

/-- The error of `rnd_div` is that of its magnitude, and so is its product with `d`: the sign only multiplies both. -/
theorem abs_rndDiv {n : Int} (hn : n ≠ 0) (d : Nat) :
    |n - d * rndDiv n d| = |(|n| - d * halfUp |n| d)| ∧ |d * rndDiv n d| = |d * halfUp |n| d| := by
  have hs : |n.sign| = 1 := Int.abs_sign_of_ne_zero hn
  have hr := rndDiv_eq_sign_mul_halfUp n d
  have herr : n - d * rndDiv n d = n.sign * (|n| - d * halfUp |n| d) := by
    linear_combination -(d : Int) * hr - Int.sign_mul_abs n
  have hmul : d * rndDiv n d = n.sign * (d * halfUp |n| d) := by
    linear_combination (d : Int) * hr
  rw [herr, hmul, abs_mul, abs_mul, hs, one_mul, one_mul]
  exact ⟨rfl, rfl⟩

/-- `rnd_div` is off by at most half, and a tie goes away from zero. -/
theorem rndDiv_nearest (n : Int) {d : Nat} (hd : 0 < d) :
    2 * |n - d * rndDiv n d| ≤ d ∧ (2 * |n - d * rndDiv n d| = d → |n| < |d * rndDiv n d|) := by
  by_cases hn : n = 0
  · have hzero : n - d * rndDiv n d = 0 := by simp [hn, rndDiv]
    rw [hzero, abs_zero]
    omega
  obtain ⟨herr, hmul⟩ := abs_rndDiv hn d
  obtain ⟨hlow, hhigh⟩ := halfUp_bounds |n| hd
  rw [herr, hmul]
  generalize d * halfUp |n| d = p at hlow hhigh
  have hp := le_abs_self p
  rcases abs_cases (|n| - p) with ⟨habs, -⟩ | ⟨habs, -⟩ <;> omega

/-- Settles O32: the formula is the definition with `|n|` for its natural magnitude, the rest is `rndDiv_nearest`. -/
theorem rndDivNearest : Obligations.RndDivNearest := by
  intro n d hd
  exact ⟨rndDiv_eq_sign_mul_halfUp n d, rndDiv_nearest n hd⟩

/-- `rnd_div` as a rounding of the rational `n / d` (R8). -/
theorem rndDiv_nearest_rat (n : Int) {d : Nat} (hd : 0 < d) :
    |(n : ℚ) / d - rndDiv n d| ≤ 1 / 2 ∧
    (|(n : ℚ) / d - rndDiv n d| = 1 / 2 → |(n : ℚ) / d| < |(rndDiv n d : ℚ)|) := by
  obtain ⟨hnear, htie⟩ := rndDiv_nearest n hd
  generalize rndDiv n d = r at hnear htie
  have hd' : (0 : ℚ) < d := by exact_mod_cast hd
  have herr : |(n : ℚ) / d - r| = |(n : ℚ) - d * r| / d := by
    rw [div_sub' hd'.ne', abs_div, abs_of_pos hd']
  have hval : |(n : ℚ) / d| = |(n : ℚ)| / d := by rw [abs_div, abs_of_pos hd']
  have hres : |(r : ℚ)| = |(d * r : ℚ)| / d := by rw [abs_mul, abs_of_pos hd', mul_div_cancel_left₀ _ hd'.ne']
  rw [herr, hval, hres, div_le_div_iff₀ hd' two_pos, div_eq_div_iff hd'.ne' two_ne_zero, div_lt_div_iff_of_pos_right hd',
    one_mul, mul_comm _ 2]
  exact ⟨by exact_mod_cast hnear, by exact_mod_cast htie⟩

/-- Settles O33: the exact value is the quotient that `scale_fx` hands to `rnd_div`. -/
theorem scaleFxRoundsOnce : Obligations.ScaleFxRoundsOnce := by
  intro raw scale offset frac
  refine ⟨rfl, ?_⟩
  intro value
  have hs : (scale.den : ℚ) ≠ 0 := by exact_mod_cast scale.den_pos.ne'
  have ho : (offset.den : ℚ) ≠ 0 := by exact_mod_cast offset.den_pos.ne'
  have hvalue : value =
      (((raw * scale.num * offset.den + offset.num * scale.den) * 10 ^ frac : Int) : ℚ) /
        ((scale.den * offset.den : Nat) : ℚ) := by
    simp only [value]
    push_cast
    field_simp
  rw [hvalue, scaleFx]
  exact rndDiv_nearest_rat _ (Nat.mul_pos scale.den_pos offset.den_pos)

end Sys2Proof.Proofs.Scope
end

section
/-! SUPPORT. Proofs of the statements of 10_state.md: reset (R20), the invariant of reachable states (R21), the sticky
flags (R16), what an accessor sees (R14), and the committed frame (R10). -/

namespace Sys2Proof.Proofs.StateRules

open Sys2Proof Sys2Proof.Machine

/-! ### What a command does to the error state and to a committed frame -/

/-- No status but `OK` has the number 0 (60_exceptions.md R200). -/
theorem statusNumber_pos {st : Status} (h : st ≠ .ok) : 0 < statusNumber st := by
  cases st with
  | ok => exact absurd rfl h
  | _ => decide

theorem errCode_ne_zero {st : Status} (h : st ≠ .ok) : errCode st ≠ 0 := by
  intro hzero
  have hnum := errCode_toNat st
  rw [hzero] at hnum
  exact (statusNumber_pos h).ne hnum

/-- `ERR` and `EFLAGS` after any command but `CLR` (R15, R16): `OK` with no flag touched, or a fault and its flag. -/
theorem exec_err_eflags {i : Instr} {s t : State} (h : exec i s = .next t) (hclr : i ≠ .clr) :
    (t.err = 0 ∧ t.eflags = s.eflags) ∨
    (∃ st : Status, st ≠ .ok ∧ t.err = errCode st ∧ t.eflags = setSticky s.eflags st) := by
  rcases exec_next_all h with ⟨hi, -⟩ | ⟨e, he, rfl⟩ | ⟨-, rs, rfl⟩ | ⟨ch, -, -, -, rfl⟩ | ⟨ch, -, -, -, rfl⟩ |
    ⟨-, -, -, rfl⟩
  · exact absurd hi hclr
  · exact .inr ⟨e.status, he, rfl, rfl⟩
  · exact .inl ⟨rfl, rfl⟩
  · exact .inl ⟨rfl, rfl⟩
  · exact .inl ⟨rfl, loadChar_eflags ch s⟩
  · exact .inl ⟨rfl, rfl⟩

/-- Settles O15: a fault sets its own sticky bit, by `setSticky_getLsbD`. -/
theorem eflagsSticky : Obligations.EflagsSticky := by
  intro i s t h hclr
  rcases exec_err_eflags h hclr with ⟨herr, hflags⟩ | ⟨st, hst, herr, hflags⟩
  · exact ⟨fun _ => hflags, fun hne => absurd herr hne⟩
  · refine ⟨fun hzero => absurd (herr.symm.trans hzero) (errCode_ne_zero hst), fun _ k _ => ?_⟩
    rw [hflags, herr, setSticky_getLsbD, errCode_toNat]

/-- The frame state, with a frame committed, after any command but `CLR` (R10): only `PUSH` and `COMMIT` could change
it, and both raise `FrameLocked`. -/
theorem exec_keeps_committed {i : Instr} {s t : State} (h : exec i s = .next t) (hclr : i ≠ .clr)
    (hv : s.valid = true) : t.frame = s.frame ∧ t.bad = s.bad ∧ t.cnt = s.cnt ∧ t.valid = true := by
  rcases exec_next_all h with ⟨hi, -⟩ | ⟨e, -, rfl⟩ | ⟨-, rs, rfl⟩ | ⟨ch, -, hopen, -⟩ | ⟨ch, -, hopen, -⟩ |
    ⟨-, hopen, -⟩
  · exact absurd hi hclr
  · exact ⟨rfl, rfl, rfl, hv⟩
  · exact ⟨rfl, rfl, rfl, hv⟩
  all_goals simp [hv] at hopen

/-! ### The word of `CLR` (30_encoding.md R57) -/

/-- A word of format Z is its opcode alone (R51). -/
theorem word_of_formatZ {w : CmdWord} {op : Nat} (hop : wordField w 26 6 = op) (hzero : wordField w 0 26 = 0) :
    w.toNat = op * 2 ^ 26 := by
  have hw := w.isLt
  simp only [wordField] at hop hzero
  omega

theorem decodeZ_ok {w : CmdWord} {i j : Instr} (h : decodeZ w i = .ok j) : wordField w 0 26 = 0 ∧ i = j := by
  unfold decodeZ at h
  split at h
  · next hzero => exact ⟨hzero, Except.ok.inj h⟩
  · cases h

/-- No selector stands for `CLR`: the word of a selector's command has opcode 0x20 (R60). -/
theorem decodeF_ne_clr (w : CmdWord) : decodeF w ≠ .ok .clr := by
  intro h
  unfold decodeF at h
  split at h
  · have hsel := selectorInstr_assigned (wordField w 0 8) (Nat.mod_lt _ (by decide))
    split at h
    · next i hi =>
      cases h
      rw [hi] at hsel
      obtain ⟨-, hword, -⟩ := of_decide_eq_true hsel
      rw [encodeNat] at hword
      omega
    · cases h
  · cases h

/-- Format A spells no `CLR` when none of its opcode's commands is one. -/
theorem decodeA_ne_clr (w : CmdWord) {mk : Nat → Nat → ByteOrder → Except Illegal Instr}
    (h : ∀ off cnt rev, mk off cnt rev ≠ .ok .clr) : decodeA w mk ≠ .ok .clr := by
  unfold decodeA
  split
  · exact h _ _ _
  · exact nofun

/-- Only one word decodes to `CLR`. -/
theorem word_of_decode_clr {w : CmdWord} (h : decode w = .ok .clr) : w = 0x04000000 := by
  unfold decode at h
  split at h
  case h_1 hop =>
    obtain ⟨hzero, -⟩ := decodeZ_ok h
    exact BitVec.eq_of_toNat_eq (word_of_formatZ hop hzero)
  case h_2 => unfold decodeC at h; split at h <;> cases h
  case h_5 => exact absurd h (decodeA_ne_clr w fun _ _ rev => by cases rev <;> exact nofun)
  case h_6 => unfold decodeB at h; split at h <;> cases h
  case h_7 => exact absurd h (decodeA_ne_clr w fun _ _ _ => nofun)
  case h_8 => exact absurd h (decodeA_ne_clr w fun _ _ rev => by cases rev <;> exact nofun)
  case h_14 => exact absurd h (decodeF_ne_clr w)
  case h_15 => cases h
  all_goals exact absurd (decodeZ_ok h).2 nofun

/-- Settles O20, along the four things a step can do; the command that runs is not `CLR`, since its word is not. -/
theorem committedFrameIsImmutable : Obligations.CommittedFrameIsImmutable := by
  intro s t hv h hreset hdrop hword
  rcases portStep_next h with ⟨-, rfl⟩ | ⟨w, rest, i, hbox, hdec, hrun⟩ | ⟨w, rest, e, -, -, rfl⟩ |
    ⟨rest, hbox | ⟨w, hbox⟩, -⟩
  · exact ⟨fun _ => rfl, rfl, rfl, hv⟩
  · have hclr : i ≠ .clr := by
      rintro rfl
      exact hword rest (word_of_decode_clr hdec ▸ hbox)
    obtain ⟨hframe, hbad, hcnt, hvalid⟩ := exec_keeps_committed hrun hclr hv
    exact ⟨fun a => by rw [hframe, accept_frame], hbad, hcnt, hvalid⟩
  · exact ⟨fun _ => rfl, rfl, rfl, hv⟩
  · exact absurd hbox (hreset rest)
  · exact absurd hbox (hdrop w rest)

/-! ### What an accessor's response depends on -/

/-- The response to an answer depends on the answer and `VALID` alone (R14). -/
theorem accessor_response_congr {s s' t t' : State} {q : Answer} (hv : s.valid = s'.valid)
    (h : accessor s q = .next t) (h' : accessor s' q = .next t') : t.r = t'.r ∧ t.err = t'.err := by
  unfold accessor at h h'
  rw [← hv] at h'
  split at h
  · next hvalid =>
    rw [if_pos hvalid] at h'
    cases q with
    | ok rs => cases h; cases h'; exact ⟨rfl, rfl⟩
    | error e => cases h; cases h'; exact ⟨rfl, rfl⟩
  · next hvalid =>
    rw [if_neg hvalid] at h'
    cases h
    cases h'
    exact ⟨rfl, rfl⟩

/-- Settles O18: the answer of an accessor is a function of the frame and `BAD` (`exec_accessor_form`). -/
theorem accessorsSeeOnlyTheFrame : Obligations.AccessorsSeeOnlyTheFrame := by
  intro i s s' t t' ha hframe hbad hv h h'
  obtain ⟨q, hq, -⟩ := exec_accessor_form ha
  rw [hq] at h h'
  rw [← hframe, ← hbad] at h'
  exact accessor_response_congr hv h h'

/-! ### Reset (R20) -/

/-- Settles O5: an accessor at reset is `accessor_invalid`; the other commands evaluate. -/
theorem resetLeavesZero : Obligations.ResetLeavesZero := by
  refine ⟨fun a _ => ⟨rfl, BitVec.getLsbD_zero⟩, rfl, rfl, rfl, rfl, rfl, fun s => rfl, rfl, fun i ha => ?_⟩
  obtain ⟨q, hq, -⟩ := exec_accessor_form ha
  rw [hq]
  exact accessor_invalid _ reset_valid

/-! ### The invariant of reachable states (R21): each update of the state keeps it -/

/-- A frame just cleared, whatever `ERR` is within its range. -/
theorem stateInv_cleared {s : State} (h : stateInv s) :
    stateInv { s with frame := [], bad := 0, cnt := 0, valid := false, eflags := 0 } := by
  obtain ⟨-, -, -, -, -, -, herr⟩ := h
  exact ⟨rfl, Nat.zero_le _, nofun, fun _ _ _ => ⟨rfl, BitVec.getLsbD_zero⟩, fun _ _ => rfl, BitVec.getLsbD_zero, herr⟩

theorem stateInv_finish {s : State} (rs : Results) (h : stateInv s) : stateInv (finish s rs) := by
  obtain ⟨hwf, hcnt, hvalid, hrest, hnibble, hsticky, -⟩ := h
  exact ⟨hwf, hcnt, hvalid, hrest, hnibble, hsticky, Nat.zero_le _⟩

/-- A raise keeps `EFLAGS[0]` at 0, since its status is not `OK` (R21 (e)). -/
theorem stateInv_raise {s : State} {e : Raised} (he : e.status ≠ .ok) (h : stateInv s) : stateInv (raise s e) := by
  obtain ⟨hwf, hcnt, hvalid, hrest, hnibble, hsticky, -⟩ := h
  refine ⟨hwf, hcnt, hvalid, hrest, hnibble, ?_, ?_⟩
  · rw [raise_eflags, setSticky_getLsbD, hsticky, Bool.false_or, decide_eq_false_iff_not]
    exact (statusNumber_pos he).ne
  · rw [raise_err, errCode_toNat]
    exact statusNumber_le _

/-- The count of a `PUSH` saturates at 141 (R12): from 140 on, R21 (c) and (d) say nothing of the frame. -/
theorem stateInv_saturated {s : State} (h : stateInv s) (hv : s.valid = false) :
    stateInv { s with cnt := 141 } := by
  obtain ⟨hwf, -, -, -, -, hsticky, herr⟩ := h
  refine ⟨hwf, le_rfl, fun hvalid => absurd (hv.symm.trans hvalid) nofun, fun a ha hle => ?_, fun _ hlt => ?_,
    hsticky, herr⟩
  · have hpast : 70 ≤ a := by simpa using hle
    omega
  · simp at hlt

theorem stateInv_committed {s : State} (h : stateInv s) (hcnt : s.cnt.toNat = 140) :
    stateInv { s with valid := true } := by
  obtain ⟨hwf, hle, -, hrest, hnibble, hsticky, herr⟩ := h
  exact ⟨hwf, hle, fun _ => hcnt, hrest, hnibble, hsticky, herr⟩

/-- Loading a character touches one byte of the frame. -/
theorem byteAt_loadChar_other (ch : Byte) {s : State} {a : Nat} (hne : a ≠ s.cnt.toNat / 2) :
    byteAt (loadChar ch s) a = byteAt s a := by
  rw [byteAt, loadChar_frame, read_writeNibble_other _ _ hne, byteAt]

/-- The first character of a byte leaves the low digit 0 (40_frame_control.md R72). -/
theorem byteAt_loadChar_even (ch : Byte) {s : State} (hwf : Memory.wf s.frame = true) (heven : s.cnt.toNat % 2 = 0) :
    byteAt (loadChar ch s) (s.cnt.toNat / 2) = (hexDigit ch).getD 0 * 16 := by
  rw [byteAt, loadChar_frame, read_writeNibble_same hwf (hexDigit_getD_lt ch), if_pos heven]

/-- Loading a character marks no byte but its own. -/
theorem loadChar_bad_other (ch : Byte) {s : State} {a : Nat} (ha : a < 70) (hne : a ≠ s.cnt.toNat / 2) :
    (loadChar ch s).bad.getLsbD a = s.bad.getLsbD a := by
  rw [loadChar_bad]
  split
  · simp [markBad_getLsbD _ _ _ ha, hne]
  · rfl

theorem loadChar_cnt_toNat (ch : Byte) {s : State} (hlt : s.cnt.toNat < 140) :
    (loadChar ch s).cnt.toNat = s.cnt.toNat + 1 := by
  rw [loadChar_cnt]
  bv_omega

/-- Loading a character: the byte it touches is below the bytes of R21 (c), and an even position clears the low digit
for R21 (d). -/
theorem stateInv_loadChar (ch : Byte) {s : State} (h : stateInv s) (hv : s.valid = false)
    (hlt : s.cnt.toNat < 140) : stateInv (loadChar ch s) := by
  obtain ⟨hwf, -, -, hrest, -, hsticky, herr⟩ := h
  have hcnt := loadChar_cnt_toNat ch hlt
  refine ⟨?_, by omega, ?_, fun a ha hle => ?_, fun hodd _ => ?_, ?_, ?_⟩
  · rw [loadChar_frame]
    exact writeNibble_wf hwf hlt
  · simp [hv]
  · have hne : a ≠ s.cnt.toNat / 2 := by omega
    rw [byteAt_loadChar_other ch hne, loadChar_bad_other ch ha hne]
    exact hrest a ha (by omega)
  · rw [hcnt, Nat.add_sub_cancel, byteAt_loadChar_even ch hwf (by omega)]
    exact Nat.mul_mod_left _ _
  · rwa [loadChar_eflags]
  · rwa [loadChar_err]

/-- Every command keeps the invariant, along everything a command can do. -/
theorem exec_keeps_stateInv {i : Instr} {s t : State} (hinv : stateInv s) (h : exec i s = .next t) : stateInv t := by
  rcases exec_next_all h with ⟨-, rfl⟩ | ⟨e, he, rfl⟩ | ⟨-, rs, rfl⟩ | ⟨ch, -, hv, -, rfl⟩ | ⟨ch, -, hv, hlt, rfl⟩ |
    ⟨-, -, hcnt, rfl⟩
  · exact stateInv_finish _ (stateInv_cleared hinv)
  · exact stateInv_raise he hinv
  · exact stateInv_finish _ hinv
  · exact stateInv_finish _ (stateInv_saturated hinv hv)
  · exact stateInv_finish _ (stateInv_loadChar ch hinv hv hlt)
  · exact stateInv_finish _ (stateInv_committed hinv hcnt)

/-- Settles O12. -/
theorem resetMeetsInvariant : Obligations.ResetMeetsInvariant :=
  ⟨reset_wf, Nat.zero_le _, nofun, fun _ _ _ => ⟨rfl, BitVec.getLsbD_zero⟩, fun _ _ => rfl, BitVec.getLsbD_zero, Nat.zero_le _⟩

/-- Settles O13: the invariant does not speak of the port, so taking a word and an idle step keep it; `rst` gives the
reset state, and a command keeps it by `exec_keeps_stateInv`. -/
theorem stepKeepsInvariant : Obligations.StepKeepsInvariant := by
  intro s t hinv h
  have haccept : ∀ rest, stateInv (accept s rest) := fun _ => hinv
  rcases portStep_next h with ⟨-, rfl⟩ | ⟨w, rest, i, -, -, hrun⟩ | ⟨w, rest, e, -, -, rfl⟩ | ⟨rest, -, rfl⟩
  · exact hinv
  · exact exec_keeps_stateInv (haccept rest) hrun
  · exact stateInv_raise (nofun : Status.illegalCommand ≠ .ok) (haccept rest)
  · exact resetMeetsInvariant

end Sys2Proof.Proofs.StateRules
end

section
/-! SUPPORT. Proofs of the statements of 20_memory.md: the port's digits (R33), what accessors leave of the frame (R40,
R42), `MemRead` (R31), byte orders (R34), the layout (R35), and several instances with their parameters (R45). -/

namespace Sys2Proof.Proofs.MemoryRules

open Sys2Proof Sys2Proof.Machine

/-! ### The digits of the character port (R33) -/

/-- Settles O22: the statement's letter values 10 and up are the definition's, with the subtraction done once. -/
theorem hexDigitValues : Obligations.HexDigitValues := by
  intro c
  have hupper (h : 0x41 ≤ c.toNat) : c.toNat - 0x41 + 10 = c.toNat - 55 := by omega
  have hlower (h : 0x61 ≤ c.toNat) : c.toNat - 0x61 + 10 = c.toNat - 87 := by omega
  simp only [hexDigit]
  split_ifs with _ hu hl
  · rfl
  · rw [hupper hu.1]
  · rw [hlower hl.1]
  · rfl

/-! ### Accessors and the frame (R40, R42) -/

/-- An accessor command leaves all of the frame's state and the host's events, with results or with a raise (R40). -/
theorem exec_accessor_keeps_frame {i : Instr} {s t : State} (ha : isAccessor i = true) (h : exec i s = .next t) :
    t.frame = s.frame ∧ t.bad = s.bad ∧ t.cnt = s.cnt ∧ t.valid = s.valid ∧ t.inbox = s.inbox := by
  rcases exec_accessor_next ha h with ⟨-, rs, rfl⟩ | ⟨e, -, rfl⟩
  · exact ⟨rfl, rfl, rfl, rfl, rfl⟩
  · exact ⟨rfl, rfl, rfl, rfl, rfl⟩

/-- Settles O17. -/
theorem accessorsChangeNoFrameState : Obligations.AccessorsChangeNoFrameState := by
  intro i s t ha h
  obtain ⟨hframe, hrest⟩ := exec_accessor_keeps_frame ha h
  exact ⟨fun a => by rw [hframe], hframe, hrest⟩

/-- A run of commands that ends in a next state: its first command answered one, from which the others ran. -/
theorem execAll_cons_next {i : Instr} {is : List Instr} {s u : State} (h : execAll (i :: is) s = .next u) :
    ∃ t, exec i s = .next t ∧ execAll is t = .next u := by
  simp only [execAll] at h
  split at h
  · next t ht => exact ⟨t, ht, h⟩
  · cases h
  · cases h

/-- A run of accessor commands leaves the frame, by induction on the run. -/
theorem execAll_accessors_keep_frame {is : List Instr} {s u : State} (his : ∀ j ∈ is, isAccessor j = true)
    (h : execAll is s = .next u) : s.frame = u.frame ∧ s.bad = u.bad ∧ s.valid = u.valid := by
  induction is generalizing s with
  | nil => cases h; exact ⟨rfl, rfl, rfl⟩
  | cons i is ih =>
    obtain ⟨hi, his⟩ := List.forall_mem_cons.1 his
    obtain ⟨t, hexec, hrest⟩ := execAll_cons_next h
    obtain ⟨hframe, hbad, -, hvalid, -⟩ := exec_accessor_keeps_frame hi hexec
    rw [← hframe, ← hbad, ← hvalid]
    exact ih his hrest

/-- Settles O19: the run leaves all that an accessor's response depends on (O18). -/
theorem accessorsCommute : Obligations.AccessorsCommute := by
  intro is i s u t t' his hi hrun hlater hnow
  obtain ⟨hframe, hbad, hvalid⟩ := execAll_accessors_keep_frame his hrun
  exact StateRules.accessorsSeeOnlyTheFrame i u s t t' hi hframe.symm hbad.symm hvalid.symm hlater hnow

/-- Settles O29, by the three laws of `memRead`. -/
theorem memReadRule : Obligations.MemReadRule :=
  fun _ _ _ => ⟨memRead_range, fun _ => memRead_marked, memRead_ok⟩

/-! ### Byte orders (R34) -/

/-- `le` is the library's number of a list of digits in base 256. -/
theorem le_eq_ofDigits (bs : List Byte) : le bs = Nat.ofDigits 256 (bs.map BitVec.toNat) := by
  induction bs with
  | nil => rfl
  | cons b bs ih => rw [le, ih, List.map_cons, Nat.ofDigits_cons]

/-- `be` reads the digits from the other end. -/
theorem be_eq_ofDigits_reverse (bs : List Byte) : be bs = Nat.ofDigits 256 (bs.reverse.map BitVec.toNat) := by
  rw [be, digitsValue, Nat.ofDigits_eq_foldr, List.map_reverse, List.foldr_reverse]
  simp only [add_comm, mul_comm, Nat.cast_id]

theorem be_reverse (bs : List Byte) : be bs.reverse = le bs := by
  rw [be_eq_ofDigits_reverse, List.reverse_reverse, le_eq_ofDigits]

/-- In `be` the first byte weighs above all that follow. -/
theorem be_cons (b : Byte) (bs : List Byte) : be (b :: bs) = b.toNat * 256 ^ bs.length + be bs := by
  simp only [be_eq_ofDigits_reverse, List.reverse_cons, List.map_append, Nat.ofDigits_append, List.length_map,
    List.length_reverse, List.map_cons, List.map_nil, Nat.ofDigits_singleton]
  ring

theorem le_eq_sum (bs : List Byte) : le bs = ∑ k : Fin bs.length, (bs[k]).toNat * 256 ^ (k : Nat) := by
  induction bs with
  | nil => rfl
  | cons b bs ih =>
    have hshift (k : Fin bs.length) :
        256 * ((bs[k]).toNat * 256 ^ (k : Nat)) = (bs[k]).toNat * 256 ^ ((k : Nat) + 1) := by ring
    rw [le, ih, Finset.mul_sum]
    simp only [hshift, List.length_cons, Fin.sum_univ_succ]
    simp

theorem be_eq_sum (bs : List Byte) :
    be bs = ∑ k : Fin bs.length, (bs[k]).toNat * 256 ^ (bs.length - 1 - k) := by
  induction bs with
  | nil => rfl
  | cons b bs ih =>
    rw [be_cons, ih]
    have hshift (k : Fin bs.length) : bs.length - 1 - k = bs.length - (k + 1) := by omega
    simp only [hshift, List.length_cons, Fin.sum_univ_succ]
    simp

/-- Settles O30. -/
theorem byteOrderValues : Obligations.ByteOrderValues :=
  fun bs => ⟨be_eq_sum bs, le_eq_sum bs, be_reverse bs⟩

/-! ### The layout (R35) -/

/-- The selector of a field reads the whole field in its order, and `R[0]` is the number read. -/
def ReadsWhole (f : Field) : Prop :=
  ∃ g : Nat → Results, (∀ s, exec f.selector s = fieldRead s f.off f.bytes f.order g) ∧ ∀ v, (g v).r0 = regOfNat v

/-! The four kinds of selector: the plain number, the number with bit groups of it, the analog
transform, the scaled field. -/

theorem readsWhole_plain {off n : Nat} {o : ByteOrder} {i : Instr} (h : ∀ s, exec i s = fieldPlain s off n o) :
    ReadsWhole ⟨off, n, o, i⟩ :=
  ⟨fun v => result0 (regOfNat v), h, fun _ => rfl⟩

theorem readsWhole_hwv : ReadsWhole ⟨12, 1, .be, .fldHwv⟩ :=
  ⟨fun b => ⟨regOfNat b, regOfNat (bitSlice b 4 0), regOfNat (bitSlice b 7 5), 0⟩, fun _ => rfl, fun _ => rfl⟩

theorem readsWhole_lgf : ReadsWhole ⟨38, 2, .le, .fldLgf⟩ :=
  ⟨fun v => ⟨regOfNat v, regOfNat (bitSlice v 15 11), regOfNat (bitSlice v 10 6), regOfNat (bitSlice v 5 0)⟩,
    fun _ => rfl, fun _ => rfl⟩

theorem readsWhole_analog (an : Analog) {off : Nat} {i : Instr} (h : ∀ s, exec i s = fieldAnalog an s off) :
    ReadsWhole ⟨off, 1, .be, i⟩ :=
  ⟨fun v => ⟨regOfNat v, regOfInt (scaleFx v an.scale an.offset an.frac), regOfNat an.frac, 0⟩, h, fun _ => rfl⟩

theorem readsWhole_scaled (q : PosRatio) (frac : Nat) {off n : Nat} {i : Instr}
    (h : ∀ s, exec i s = fieldScaled q frac s off n) : ReadsWhole ⟨off, n, .le, i⟩ :=
  ⟨fun v => ⟨regOfNat v, regOfInt (scaleFx v q.toRatio Ratio.zero frac), regOfNat frac, 0⟩, h, fun _ => rfl⟩

/-- Every selector of the layout is of one of the four kinds, listed in the order of the layout's three parts; a hole is
a plain number. -/
theorem layout_readsWhole : ∀ f ∈ layout, ReadsWhole f := by
  simp only [layout, List.forall_mem_append, List.forall_mem_cons]
  refine ⟨⟨
    ⟨?_, ?_, ?_, ?_, ?_, readsWhole_hwv, ?_, ?_, ?_, ?_, ?_, ?_, ?_, List.forall_mem_nil _⟩,
    ⟨?_, ?_, ?_, ?_, ?_, readsWhole_analog Config.params.an1 fun _ => rfl,
      readsWhole_analog Config.params.an2 fun _ => rfl, readsWhole_analog Config.params.an3 fun _ => rfl,
      readsWhole_analog Config.params.an4 fun _ => rfl, ?_, ?_, readsWhole_lgf, ?_, ?_, ?_, ?_,
      List.forall_mem_nil _⟩⟩,
    ⟨?_, ?_, readsWhole_scaled Config.params.altScale Config.params.altFrac fun _ => rfl,
      readsWhole_scaled Config.params.spdScale 3 fun _ => rfl,
      readsWhole_scaled Config.params.dirScale Config.params.dirFrac fun _ => rfl,
      ?_, ?_, ?_, ?_, ?_, ?_, ?_, List.forall_mem_nil _⟩⟩
  all_goals exact readsWhole_plain fun _ => rfl

theorem orderValue_eq_ite (o : ByteOrder) (bs : List Byte) : orderValue o bs = if o = .le then le bs else be bs := by
  cases o <;> rfl

/-- Settles O54: the rows are checked one by one; a row's selector is a field read, which finishes `OK` (R130). -/
theorem layoutCoversFrame : Obligations.LayoutCoversFrame := by
  refine ⟨by decide, by decide, fun f hf s hv hr => ?_⟩
  have hbound : ∀ f ∈ layout, f.off + f.bytes ≤ 70 := by decide
  obtain ⟨g, hexec, hr0⟩ := layout_readsWhole f hf
  refine ⟨_, (hexec s).trans (fieldRead_ok _ g (hbound f hf) hv hr), rfl, ?_⟩
  rw [finish_r, hr0, orderValue_eq_ite, regOfNat]

/-! ### Several instances (R45) -/

/-- What its own step makes of one of several instances (60_exceptions.md R216). -/
def stepped (a : Instance) : Instance :=
  match stepIn a.params a.state with
  | .next t => a.withState t
  | .fault _ => a
  | .refused _ => a

theorem stepped_of_next {a : Instance} {t : State} (h : stepIn a.params a.state = .next t) :
    stepped a = a.withState t := by
  simp only [stepped, h]

/-- A step modifies the list of instances at its index alone. -/
theorem stepInstance_eq_modify (k : Nat) (instances : List Instance) :
    stepInstance k instances = instances.modify k stepped := by
  induction instances generalizing k with
  | nil => simp [stepInstance]
  | cons a rest ih =>
    cases k with
    | zero =>
      rw [stepInstance, List.modify_zero_cons]
      split
      · next t ht => rw [stepped_of_next ht]
      · next r hr => simp only [stepped, hr]
      · next r hr => simp only [stepped, hr]
    | succ j => rw [stepInstance, ih, List.modify_succ_cons]

/-- Settles O59, by the library's lemmas on a list modified at one index. -/
theorem instancesShareNothing : Obligations.InstancesShareNothing := by
  intro instances k j
  rw [stepInstance_eq_modify]
  refine ⟨List.length_modify .., fun hne => ?_, fun a t ha ht => ⟨?_, withState_params a t, withState_state a t⟩⟩
  · rw [List.getElem?_modify_ne _ _ hne.symm]
  · rw [List.getElem?_modify_eq, ha, Option.map_eq_map, Option.map_some, stepped_of_next ht]

/-! ### What runs under which parameters (R45, 10_state.md R18) -/

theorem execIn_params : execIn Config.params = exec := by
  funext i s
  cases i <;> rfl

/-- A command that reads no parameter does the same under all of them. -/
theorem execIn_eq_exec {i : Instr} (p : Params) (s : State)
    (h : i ∉ [Instr.edc, .londd, .latdd, .londms, .latdms, .fldAn1, .fldAn2, .fldAn3, .fldAn4, .fldAlt, .fldGspd,
      .fldSdir]) : execIn p i s = exec i s := by
  cases i with
  | edc | londd | latdd | londms | latdms | fldAn1 | fldAn2 | fldAn3 | fldAn4 | fldAlt | fldGspd | fldSdir =>
    exact absurd (by decide) h
  | _ => rfl

/-- A decodable word on the port is run on the state with the word taken. -/
theorem portStep_command_ok (run : Instr → State → Host.Outcome State Fault Refusal) {s : State} {w : CmdWord}
    {rest : List PortEvent} {i : Instr} (hbox : s.inbox = .command w :: rest) (hdec : decode w = .ok i) :
    portStep run s = run i (accept s rest) := by
  simp only [portStep, hbox, hdec]

/-- Without a decodable word on the port a step runs nothing. -/
theorem portStep_congr (run run' : Instr → State → Host.Outcome State Fault Refusal) {s : State}
    (h : ∀ (w : CmdWord) (rest : List PortEvent) (i : Instr), s.inbox = .command w :: rest → decode w ≠ .ok i) :
    portStep run s = portStep run' s := by
  unfold portStep
  split
  · rfl
  · next w rest hbox =>
    cases hdec : decode w with
    | ok i => exact absurd hdec (h w rest i hbox)
    | error e => rfl
  · rfl
  · rfl

/-! ### Field reads in the terms of claims (44_fields_header.md R130) -/

/-- A field read is what `runsField` says, when its results on the field's number are those claimed. -/
theorem runsField_of_fieldRead {run : State → Host.Outcome State Fault Refusal} {fo fn : Nat} (o : ByteOrder)
    (g : Nat → Results) {res : State → Results} (hrun : ∀ s, run s = fieldRead s fo fn o g) (hb : fo + fn ≤ 70)
    (hres : ∀ s, g (orderValue o (bytesAt s fo fn)) = res s) : runsField run fo fn res := by
  refine ⟨fun s hv hr => ?_, fun s hv => ?_, fun s k hv hm => ?_⟩
  · rw [hrun, fieldRead_ok o g hb hv hr, hres, finish_eq_okWith]
  · rw [hrun, fieldRead_invalid o g hv]
  · rw [hrun, fieldRead_marked o g hb hv hm]

/-- One byte is its own number in either order (R34). -/
theorem orderValue_bytesAt_one (o : ByteOrder) (s : State) (a : Nat) : orderValue o (bytesAt s a 1) = byteAt s a := by
  cases o with
  | be => exact Nat.zero_add _
  | le => rfl

theorem le_bytesAt_succ (s : State) (a n : Nat) :
    le (bytesAt s a (n + 1)) = byteAt s a + 256 * le (bytesAt s (a + 1) n) := rfl

theorem le_bytesAt_zero (s : State) (a : Nat) : le (bytesAt s a 0) = 0 := rfl

theorem le_bytesAt_two (s : State) (a : Nat) : le (bytesAt s a 2) = byteAt s a + byteAt s (a + 1) * 256 := by
  simp only [le_bytesAt_succ, le_bytesAt_zero]
  omega

theorem le_bytesAt_four (s : State) (a : Nat) : le (bytesAt s a 4) = number4 s a := by
  simp only [le_bytesAt_succ, le_bytesAt_zero, number4, Nat.add_assoc, Nat.reduceAdd]
  omega

theorem byteAt_lt (s : State) (a : Nat) : byteAt s a < 256 :=
  (Memory.read s.frame a).isLt

theorem number4_lt (s : State) (a : Nat) : number4 s a < 2 ^ 32 := by
  have h0 := byteAt_lt s a
  have h1 := byteAt_lt s (a + 1)
  have h2 := byteAt_lt s (a + 2)
  have h3 := byteAt_lt s (a + 3)
  rw [number4]
  omega

/-! ### The commands that read a parameter -/

/-- The sign test as a bound (43_coordinate.md R111). -/
theorem rawNegative_eq {raw : Nat} (h : raw < 2 ^ 32) : rawNegative raw = decide (0xF0000000 ≤ raw) := by
  rw [rawNegative, bitSlice, decide_eq_decide]
  omega

theorem coordInt_eq {raw : Nat} (h : raw < 2 ^ 32) :
    coordInt raw = if 0xF0000000 ≤ raw then (raw : Int) - 2 ^ 32 else (raw : Int) := by
  simp only [coordInt, rawNegative_eq h, decide_eq_true_eq]

/-- The scale exponent of a non-negative raw field (R113). -/
def positiveExp (ax : Axis) : Nat :=
  match ax with
  | .lon => 9
  | .lat => 8

theorem coordExp_eq (ax : Axis) {raw : Nat} (h : raw < 2 ^ 32) :
    coordExp ax raw = if 0xF0000000 ≤ raw then 8 else positiveExp ax := by
  cases ax with
  | lon => simp only [coordExp, rawNegative_eq h, decide_eq_true_eq, positiveExp]
  | lat => exact (ite_self 8).symm

/-- A scaled field has no offset, so its value is one quotient (45_fields_position_time.md R183). -/
theorem scaleFx_toRatio_zero (raw : Nat) (q : PosRatio) (frac : Nat) :
    scaleFx raw q.toRatio Ratio.zero frac = rndDiv ((raw : Int) * q.num * 10 ^ frac) q.den := by
  simp [scaleFx, PosRatio.toRatio, Ratio.zero]

/-- The results of the decimal degrees with the sign test as a bound (R117), `posExp` being the scale exponent of a
non-negative raw field. -/
def degreesResults (p : Params) (posExp raw : Nat) : Results :=
  let n : Int := if 0xF0000000 ≤ raw then (raw : Int) - 2 ^ 32 else raw
  let e := if 0xF0000000 ≤ raw then 8 else posExp
  ⟨regOfInt (rndDiv (n * p.kDeg.num * 10 ^ p.ddFrac) (p.kDeg.den * 10 ^ e)), regOfInt n, regOfNat e, regOfNat raw⟩

theorem ddResults_eq_degreesResults (p : Params) (ax : Axis) {raw : Nat} (h : raw < 2 ^ 32) :
    ddResults p ax raw = degreesResults p (positiveExp ax) raw := by
  simp only [ddResults, coordDD, coordInt_eq h, coordExp_eq ax h, degreesResults]

/-- The two axes' fields lie in the frame (43_coordinate.md R110). -/
theorem axisOffset_le (ax : Axis) : axisOffset ax + 4 ≤ 70 := by
  cases ax <;> decide

theorem runsField_dd (p : Params) (ax : Axis) {run : State → Host.Outcome State Fault Refusal}
    (hrun : ∀ s, run s = ddWith p ax s) :
    runsField run (axisOffset ax) 4 fun s => degreesResults p (positiveExp ax) (number4 s (axisOffset ax)) :=
  runsField_of_fieldRead .le (ddResults p ax) hrun (axisOffset_le ax) fun s => by
    rw [orderValue, le_bytesAt_four, ddResults_eq_degreesResults p ax (number4_lt s _)]

theorem runsField_dms (p : Params) (ax : Axis) {run : State → Host.Outcome State Fault Refusal}
    (hrun : ∀ s, run s = dmsWith p ax s) :
    runsField run (axisOffset ax) 4 fun s => dmsResults p ax (number4 s (axisOffset ax)) :=
  runsField_of_fieldRead .le (dmsResults p ax) hrun (axisOffset_le ax) fun s => by
    rw [orderValue, le_bytesAt_four]

/-- An analog input (44_fields_header.md R155). -/
theorem runsField_analog (an : Analog) {run : State → Host.Outcome State Fault Refusal} {fo : Nat}
    (hrun : ∀ s, run s = fieldAnalog an s fo) (hb : fo + 1 ≤ 70) :
    runsField run fo 1 fun s =>
      ⟨BitVec.ofNat 64 (byteAt s fo), BitVec.ofInt 64 (scaleFx (byteAt s fo) an.scale an.offset an.frac),
        BitVec.ofNat 64 an.frac, 0⟩ :=
  runsField_of_fieldRead .be _ hrun hb fun s => by rw [orderValue_bytesAt_one, regOfNat, regOfInt, regOfNat]

/-- A scaled positional field (45_fields_position_time.md R183), `raw` being the number of its bytes. -/
theorem runsField_scaled (q : PosRatio) (frac : Nat) {run : State → Host.Outcome State Fault Refusal} {fo fn : Nat}
    (raw : State → Nat) (hrun : ∀ s, run s = fieldScaled q frac s fo fn) (hb : fo + fn ≤ 70)
    (hraw : ∀ s, le (bytesAt s fo fn) = raw s) :
    runsField run fo fn fun s =>
      ⟨BitVec.ofNat 64 (raw s), BitVec.ofInt 64 (rndDiv ((raw s : Int) * q.num * 10 ^ frac) q.den),
        BitVec.ofNat 64 frac, 0⟩ :=
  runsField_of_fieldRead .le _ hrun hb fun s => by
    rw [orderValue, hraw, scaleFx_toRatio_zero, regOfNat, regOfInt, regOfNat]

/-- Settles O60: with `Config.params` the dispatch is the machine's, a step without a command runs nothing, and each of
the eleven field reads takes its parameters from `p`. -/
theorem instanceReadsItsParameters : Obligations.InstanceReadsItsParameters := by
  refine ⟨fun s => ⟨?machine, fun i => congrFun (congrFun execIn_params i) s⟩,
    fun p s w rest i hbox hdec => portStep_command_ok (execIn p) hbox hdec,
    fun p q s h => portStep_congr (execIn p) (execIn q) h,
    fun p q i s h => (execIn_eq_exec p s h).trans (execIn_eq_exec q s h).symm, fun p => ?fields⟩
  case machine => rw [stepIn, execIn_params, step]
  case fields =>
    intro degrees analog scaled
    exact ⟨runsField_dd p .lon fun _ => rfl, runsField_dd p .lat fun _ => rfl,
      runsField_dms p .lon fun _ => rfl, runsField_dms p .lat fun _ => rfl,
      runsField_analog p.an1 (fun _ => rfl) (by decide), runsField_analog p.an2 (fun _ => rfl) (by decide),
      runsField_analog p.an3 (fun _ => rfl) (by decide), runsField_analog p.an4 (fun _ => rfl) (by decide),
      runsField_scaled p.altScale p.altFrac _ (fun _ => rfl) (by decide) fun s => le_bytesAt_four s 52,
      runsField_scaled p.spdScale 3 _ (fun _ => rfl) (by decide) fun s => le_bytesAt_four s 56,
      runsField_scaled p.dirScale p.dirFrac _ (fun _ => rfl) (by decide) fun s => le_bytesAt_two s 60⟩

end Sys2Proof.Proofs.MemoryRules
end

section
/-! SUPPORT. Proofs of the statements of 30_encoding.md: decode and encode agree (R50 to R60), the reserved encodings
(R61), sample words, and the pseudo-command `LOADHEX` (R63). -/

namespace Sys2Proof.Proofs.EncodingRules

open Sys2Proof Sys2Proof.Machine

/-- Settles O1. -/
theorem decodeOfEncode : Obligations.DecodeOfEncode :=
  fun _ hwf => Scope.decode_encode hwf

/-- Settles O4: each word is a literal, which the decoder evaluates. -/
theorem sampleWordsDecode : Obligations.SampleWordsDecode :=
  ⟨rfl, rfl, rfl, rfl, rfl, rfl, rfl, rfl, rfl, rfl, rfl⟩

/-! ### The assigned selectors (R60) -/

/-- An assigned selector is the low byte of its command's word. -/
theorem selectorInstr_some {n : Nat} {i : Instr} (hn : n < 256) (h : selectorInstr n = some i) :
    n < 46 ∧ encodeNat i = 0x80000000 + n ∧ i.wellFormed = true := by
  have hsel := selectorInstr_assigned n hn
  rw [h] at hsel
  exact of_decide_eq_true hsel

theorem selectorInstr_eq_none_iff {n : Nat} (hn : n < 256) : selectorInstr n = none ↔ 46 ≤ n := by
  constructor
  · intro h
    have hsel := selectorInstr_assigned n hn
    rw [h] at hsel
    exact of_decide_eq_true hsel
  · intro hle
    cases h : selectorInstr n with
    | none => rfl
    | some i => exact absurd (selectorInstr_some hn h).1 (by omega)

/-! ### The word of an accepted command, format by format (R51 to R55) -/

/-- The command fits its fields, and the word is its encoding (R56). -/
def Spells (w : CmdWord) (i : Instr) : Prop :=
  i.wellFormed = true ∧ encode i = w

theorem spells_of_toNat {w : CmdWord} {i : Instr} (hwf : i.wellFormed = true) (h : w.toNat = encodeNat i) :
    Spells w i :=
  ⟨hwf, by rw [encode, ← h, BitVec.ofNat_toNat, BitVec.setWidth_eq]⟩

theorem wordField_lt (w : CmdWord) (lo len : Nat) : wordField w lo len < 2 ^ len :=
  Nat.mod_lt _ (Nat.two_pow_pos len)

/-- The bit that a decoded byte order came from. -/
theorem decodeOrder_bit_of_lt {b : Nat} (h : b < 2) : (decodeOrder b).bit = b := by
  interval_cases b <;> rfl

theorem decodeDir_bit_of_lt {b : Nat} (h : b < 2) : (decodeDir b).bit = b := by
  interval_cases b <;> rfl

theorem decodeZ_spells {w : CmdWord} {op : Nat} {i j : Instr} (hop : wordField w 26 6 = op)
    (hwf : i.wellFormed = true) (henc : encodeNat i = op * 2 ^ 26) (h : decodeZ w i = .ok j) : Spells w j := by
  obtain ⟨hzero, rfl⟩ := StateRules.decodeZ_ok h
  exact spells_of_toNat hwf ((StateRules.word_of_formatZ hop hzero).trans henc.symm)

theorem decodeC_spells {w : CmdWord} {i : Instr} (hop : wordField w 26 6 = 0x02) (h : decodeC w = .ok i) :
    Spells w i := by
  unfold decodeC at h
  split at h
  · next hzero =>
    cases h
    refine spells_of_toNat rfl ?_
    have hw := w.isLt
    simp only [wordField] at hop hzero
    simp only [encodeNat, wordField, BitVec.toNat_ofNat]
    omega
  · cases h

/-- A word of format A is its opcode, its two numbers and its order bit (R53). -/
theorem word_of_formatA {w : CmdWord} {op : Nat} (hop : wordField w 26 6 = op) (hzero : wordField w 0 11 = 0) :
    w.toNat = Scope.formatA op (wordField w 19 7) (wordField w 12 7) (decodeOrder (wordField w 11 1)) := by
  have hw := w.isLt
  rw [Scope.formatA, decodeOrder_bit_of_lt (wordField_lt w 11 1)]
  simp only [wordField] at hop hzero ⊢
  omega

/-- Format A spells what its opcode's commands `mk` encode to. -/
theorem decodeA_spells {w : CmdWord} {op : Nat} {mk : Nat → Nat → ByteOrder → Except Illegal Instr} {i : Instr}
    (hop : wordField w 26 6 = op)
    (hmk : ∀ off cnt rev, mk off cnt rev = .ok i →
      i.wellFormed = rangeFits off cnt ∧ encodeNat i = Scope.formatA op off cnt rev)
    (h : decodeA w mk = .ok i) : Spells w i := by
  unfold decodeA at h
  split at h
  · next hzero =>
    obtain ⟨hwf, henc⟩ := hmk _ _ _ h
    refine spells_of_toNat (hwf.trans ?_) ((word_of_formatA hop hzero).trans henc.symm)
    simp only [rangeFits, Bool.and_eq_true, decide_eq_true_eq]
    exact ⟨wordField_lt w 19 7, wordField_lt w 12 7⟩
  · cases h

theorem decodeGet_encodes {off cnt : Nat} {rev : ByteOrder} {i : Instr} (h : decodeGet off cnt rev = .ok i) :
    i.wellFormed = rangeFits off cnt ∧ encodeNat i = Scope.formatA 0x08 off cnt rev := by
  cases rev with
  | be => cases h; exact ⟨rfl, Scope.encodeNat_getb off cnt⟩
  | le => cases h; exact ⟨rfl, Scope.encodeNat_getr off cnt⟩

theorem decodeCsum_encodes {off cnt : Nat} {rev : ByteOrder} {i : Instr} (h : decodeCsum off cnt rev = .ok i) :
    i.wellFormed = rangeFits off cnt ∧ encodeNat i = Scope.formatA 0x10 off cnt rev := by
  cases rev with
  | be => cases h; exact ⟨rfl, Scope.encodeNat_csum off cnt⟩
  | le => cases h

theorem decodeB_spells {w : CmdWord} {i : Instr} (hop : wordField w 26 6 = 0x0A) (h : decodeB w = .ok i) :
    Spells w i := by
  unfold decodeB at h
  split at h
  · next hzero =>
    cases h
    refine spells_of_toNat ?_ ?_
    · simp only [Instr.wellFormed, Bool.and_eq_true, decide_eq_true_eq]
      exact ⟨⟨⟨wordField_lt w 19 7, wordField_lt w 15 4⟩, wordField_lt w 7 6⟩, wordField_lt w 1 6⟩
    · have hw := w.isLt
      rw [encodeNat, decodeOrder_bit_of_lt (wordField_lt w 14 1), decodeDir_bit_of_lt (wordField_lt w 13 1)]
      simp only [wordField] at hop hzero ⊢
      omega
  · cases h

theorem decodeF_spells {w : CmdWord} {i : Instr} (hop : wordField w 26 6 = 0x20) (h : decodeF w = .ok i) :
    Spells w i := by
  unfold decodeF at h
  split at h
  · next hzero =>
    split at h
    · next j hsel =>
      cases h
      obtain ⟨-, henc, hwf⟩ := selectorInstr_some (wordField_lt w 0 8) hsel
      refine spells_of_toNat hwf ?_
      have hw := w.isLt
      rw [henc]
      simp only [wordField] at hop hzero ⊢
      omega
    · cases h
  · cases h

/-- Settles O2, by the format of each assigned opcode (R57). -/
theorem encodeOfDecode : Obligations.EncodeOfDecode := by
  intro w i h
  unfold decode at h
  split at h
  case h_2 hop => exact decodeC_spells hop h
  case h_5 hop => exact decodeA_spells hop (fun _ _ _ => decodeGet_encodes) h
  case h_6 hop => exact decodeB_spells hop h
  case h_7 hop =>
    refine decodeA_spells hop (fun off cnt rev hmk => ?_) h
    cases hmk
    exact ⟨rfl, Scope.encodeNat_invb off cnt rev⟩
  case h_8 hop => exact decodeA_spells hop (fun _ _ _ => decodeCsum_encodes) h
  case h_14 hop => exact decodeF_spells hop h
  case h_15 => cases h
  all_goals
    next hop => exact decodeZ_spells hop rfl rfl h

/-! ### The reserved encodings (R61) -/

/-- The decoder's answer is a rejection. -/
def Rejects (q : Except Illegal Instr) : Prop :=
  ∃ e, q = .error e

@[simp] theorem rejects_ok (i : Instr) : ¬ Rejects (.ok i) := by
  rintro ⟨e, he⟩
  cases he

@[simp] theorem rejects_error (e : Illegal) : Rejects (.error e) := ⟨e, rfl⟩

theorem decodeZ_rejects (w : CmdWord) (i : Instr) : Rejects (decodeZ w i) ↔ wordField w 0 26 ≠ 0 := by
  unfold decodeZ
  split <;> simp [*]

theorem decodeC_rejects (w : CmdWord) : Rejects (decodeC w) ↔ wordField w 8 18 ≠ 0 := by
  unfold decodeC
  split <;> simp [*]

theorem decodeA_rejects (w : CmdWord) (mk : Nat → Nat → ByteOrder → Except Illegal Instr) :
    Rejects (decodeA w mk) ↔ wordField w 0 11 ≠ 0 ∨
      Rejects (mk (wordField w 19 7) (wordField w 12 7) (decodeOrder (wordField w 11 1))) := by
  unfold decodeA
  split <;> simp [*]

theorem decodeGet_accepts (off cnt : Nat) (rev : ByteOrder) : ¬ Rejects (decodeGet off cnt rev) := by
  cases rev <;> exact rejects_ok _

/-- `CSUM` has no reversed form (R61 (c)). -/
theorem decodeCsum_rejects (off cnt : Nat) {b : Nat} (hb : b < 2) :
    Rejects (decodeCsum off cnt (decodeOrder b)) ↔ b = 1 := by
  interval_cases b <;> simp [decodeOrder, decodeCsum]

theorem decodeB_rejects (w : CmdWord) : Rejects (decodeB w) ↔ wordField w 0 1 ≠ 0 := by
  unfold decodeB
  split <;> simp [*]

theorem decodeF_rejects (w : CmdWord) :
    Rejects (decodeF w) ↔ wordField w 8 18 ≠ 0 ∨ 0x2E ≤ wordField w 0 8 := by
  rw [← selectorInstr_eq_none_iff (wordField_lt w 0 8)]
  unfold decodeF
  split
  · split <;> simp [*]
  · simp [*]

/-- R61 over the fields of the word, its opcode named. -/
theorem reservedWord_iff {w : CmdWord} {op : Nat} (hop : wordField w 26 6 = op) :
    reservedWord w ↔ reservedOpcode op ∨
      (op ∈ opcodesZ ∧ wordField w 0 26 ≠ 0) ∨
      ((op = 0x02 ∨ op = 0x20) ∧ wordField w 8 18 ≠ 0) ∨
      ((op = 0x08 ∨ op = 0x0B ∨ op = 0x10) ∧ wordField w 0 11 ≠ 0) ∨
      (op = 0x0A ∧ wordField w 0 1 ≠ 0) ∨
      (op = 0x10 ∧ wordField w 11 1 = 1) ∨
      (op = 0x20 ∧ 0x2E ≤ wordField w 0 8) := by
  have hopc : w.toNat / 2 ^ 26 = op := by
    rw [← hop, wordField, Nat.mod_eq_of_lt (by have := w.isLt; omega)]
  simp only [reservedWord, hopc, wordField, pow_zero, pow_one, Nat.div_one]

/-- An opcode that the map of R57 does not assign is reserved (R61 (a)). -/
theorem reservedOpcode_of_unassigned {op : Nat} (hlt : op < 64)
    (h : op ∉ [0x01, 0x02, 0x03, 0x04, 0x08, 0x0A, 0x0B, 0x10, 0x11, 0x18, 0x19, 0x1A, 0x1B, 0x20]) :
    reservedOpcode op := by
  simp only [List.mem_cons, List.not_mem_nil, or_false, not_or] at h
  unfold reservedOpcode
  omega

/-- Under each assigned opcode the format's rejections are its clauses of R61; the other opcodes are reserved. -/
theorem decode_rejects_iff (w : CmdWord) : Rejects (decode w) ↔ reservedWord w := by
  unfold decode
  split
  case h_2 hop => simp [reservedWord_iff hop, decodeC_rejects, reservedOpcode, opcodesZ]
  case h_5 hop => simp [reservedWord_iff hop, decodeA_rejects, decodeGet_accepts, reservedOpcode, opcodesZ]
  case h_6 hop => simp [reservedWord_iff hop, decodeB_rejects, reservedOpcode, opcodesZ]
  case h_7 hop => simp [reservedWord_iff hop, decodeA_rejects, reservedOpcode, opcodesZ]
  case h_8 hop =>
    simp [reservedWord_iff hop, decodeA_rejects, decodeCsum_rejects _ _ (wordField_lt w 11 1), reservedOpcode, opcodesZ]
  case h_14 hop => simp [reservedWord_iff hop, decodeF_rejects, reservedOpcode, opcodesZ]
  case h_15 =>
    have hres : reservedOpcode (wordField w 26 6) :=
      reservedOpcode_of_unassigned (wordField_lt w 26 6) (by simp_all)
    exact iff_of_true (rejects_error _) ((reservedWord_iff rfl).2 (.inl hres))
  all_goals
    next hop => simp [reservedWord_iff hop, decodeZ_rejects, reservedOpcode, opcodesZ]

/-- Settles O3: the all-zero and the all-ones word have a reserved opcode. -/
theorem reservedWordsRejected : Obligations.ReservedWordsRejected :=
  ⟨decode_rejects_iff, .inl (.inl rfl), .inl (by simp [reservedOpcode])⟩

/-! ### The pseudo-command `LOADHEX` (R63) -/

theorem execAll_cons {i : Instr} (is : List Instr) {s t : State} (h : exec i s = .next t) :
    execAll (i :: is) s = execAll is t := by
  simp only [execAll, h]

theorem execAll_append {is : List Instr} (js : List Instr) {s t : State} (h : execAll is s = .next t) :
    execAll (is ++ js) s = execAll js t := by
  induction is generalizing s with
  | nil => cases h; rfl
  | cons i is ih =>
    obtain ⟨u, hexec, hrest⟩ := MemoryRules.execAll_cons_next h
    rw [List.cons_append, execAll_cons _ hexec, ih hrest]

/-- The nibble that character `k` of a text stores, 0 where it is no hexadecimal digit or past the end. -/
def nibbleOf (chars : List Byte) (k : Nat) : Nat :=
  (chars[k]?.bind hexDigit).getD 0

/-- Character `k` of a text is there and is no hexadecimal digit. -/
def nonDigit (chars : List Byte) (k : Nat) : Bool :=
  chars[k]?.any fun c => decide (hexDigit c = none)

theorem nibbleOf_of_getElem? {chars : List Byte} {k : Nat} {c : Byte} (h : chars[k]? = some c) :
    nibbleOf chars k = (hexDigit c).getD 0 := by
  rw [nibbleOf, h, Option.bind_some]

theorem nonDigit_of_getElem? {chars : List Byte} {k : Nat} {c : Byte} (h : chars[k]? = some c) :
    nonDigit chars k = decide (hexDigit c = none) := by
  rw [nonDigit, h, Option.any_some]

theorem nibbleOf_past {chars : List Byte} {k : Nat} (h : chars.length ≤ k) : nibbleOf chars k = 0 := by
  rw [nibbleOf, List.getElem?_eq_none h, Option.bind_none, Option.getD_none]

/-- One more character at the end of a text adds one nibble. -/
theorem nibbleOf_concat (chars : List Byte) (c : Byte) (k : Nat) :
    nibbleOf (chars ++ [c]) k = if k = chars.length then (hexDigit c).getD 0 else nibbleOf chars k := by
  rcases lt_trichotomy k chars.length with h | h | h
  · rw [if_neg h.ne, nibbleOf, List.getElem?_append_left h, nibbleOf]
  · rw [if_pos h, nibbleOf_of_getElem? (c := c) (by simp [h])]
  · rw [if_neg h.ne', nibbleOf_past (by simp; omega), nibbleOf_past h.le]

theorem nonDigit_concat (chars : List Byte) (c : Byte) (k : Nat) :
    nonDigit (chars ++ [c]) k = (nonDigit chars k || decide (k = chars.length ∧ hexDigit c = none)) := by
  rcases lt_trichotomy k chars.length with h | h | h
  · simp [nonDigit, List.getElem?_append_left h, h.ne]
  · simp [nonDigit, h]
  · simp [nonDigit, List.getElem?_eq_none, h.le, h.ne', Nat.succ_le_of_lt h]

/-- The control state and the frame after `CLR` and a `PUSH` of each of `chars` (40_frame_control.md R72): byte `a`
holds the nibbles of characters `2a` and `2a + 1` (20_memory.md R32) and is marked when one of them is no digit. -/
structure Loaded (chars : List Byte) (s : State) : Prop where
  valid : s.valid = false
  cnt : s.cnt.toNat = chars.length
  eflags : s.eflags = 0
  wf : Memory.wf s.frame = true
  byte : ∀ a, byteAt s a = nibbleOf chars (2 * a) * 16 + nibbleOf chars (2 * a + 1)
  bad : ∀ a, a < 70 → s.bad.getLsbD a = (nonDigit chars (2 * a) || nonDigit chars (2 * a + 1))

theorem exec_clr_loaded (s : State) : ∃ t, exec .clr s = .next t ∧ Loaded [] t :=
  ⟨_, rfl, rfl, rfl, rfl, rfl, fun _ => rfl, fun _ _ => BitVec.getLsbD_zero⟩

/-- The second character of a byte leaves the high digit (40_frame_control.md R72). -/
theorem byteAt_loadChar_odd (ch : Byte) {s : State} (hwf : Memory.wf s.frame = true) (hodd : s.cnt.toNat % 2 = 1) :
    byteAt (loadChar ch s) (s.cnt.toNat / 2) = byteAt s (s.cnt.toNat / 2) / 16 * 16 + (hexDigit ch).getD 0 := by
  rw [byteAt, loadChar_frame, read_writeNibble_same hwf (hexDigit_getD_lt ch), if_neg (by omega), byteAt]

/-- Loading a character stores its nibble at its place, the high one first. -/
theorem loaded_loadChar_byte {chars : List Byte} {s : State} (c : Byte) (h : Loaded chars s) (a : Nat) :
    byteAt (loadChar c s) a =
      nibbleOf (chars ++ [c]) (2 * a) * 16 + nibbleOf (chars ++ [c]) (2 * a + 1) := by
  have hcnt := h.cnt
  have hbyte := h.byte a
  rw [nibbleOf_concat, nibbleOf_concat]
  by_cases ha : a = s.cnt.toNat / 2
  · rcases Nat.mod_two_eq_zero_or_one s.cnt.toNat with heven | hodd
    · rw [if_pos (by omega), if_neg (by omega), nibbleOf_past (by omega), ha,
        StateRules.byteAt_loadChar_even c h.wf heven, Nat.add_zero]
    · rw [nibbleOf_past (by omega : chars.length ≤ 2 * a + 1)] at hbyte
      rw [if_neg (by omega), if_pos (by omega), ha, byteAt_loadChar_odd c h.wf hodd, ← ha, hbyte]
      omega
  · rw [if_neg (by omega), if_neg (by omega), StateRules.byteAt_loadChar_other c ha, hbyte]

/-- Loading a character marks its byte when it is no digit. -/
theorem loaded_loadChar_bad {chars : List Byte} {s : State} (c : Byte) (h : Loaded chars s) {a : Nat} (ha : a < 70) :
    (loadChar c s).bad.getLsbD a = (nonDigit (chars ++ [c]) (2 * a) || nonDigit (chars ++ [c]) (2 * a + 1)) := by
  have hplace : a = s.cnt.toNat / 2 ↔ 2 * a = chars.length ∨ 2 * a + 1 = chars.length := by
    have hcnt := h.cnt
    omega
  rw [loadChar_bad, nonDigit_concat, nonDigit_concat]
  split
  · next hc =>
    rw [markBad_getLsbD _ _ _ ha, h.bad a ha]
    simp only [hplace, hc, and_true, Bool.decide_or]
    ac_rfl
  · next hc => simp only [hc, and_false, decide_false, Bool.or_false, h.bad a ha]

theorem exec_push_loaded {chars : List Byte} {s : State} (c : Byte) (h : Loaded chars s) (hlt : chars.length < 140) :
    ∃ t, exec (.push c) s = .next t ∧ Loaded (chars ++ [c]) t := by
  have hlt' : s.cnt.toNat < 140 := h.cnt ▸ hlt
  refine ⟨finish (loadChar c s) (result0 (regOfNat (loadChar c s).cnt.toNat)), ?_, ?_⟩
  · rw [exec, execPush, if_neg (by simp [h.valid])]
    simp only [if_neg (not_le.2 hlt'), ge_iff_le]
  · exact {
      valid := (loadChar_valid c s).trans h.valid
      cnt := by
        rw [finish_cnt, StateRules.loadChar_cnt_toNat c hlt', h.cnt, List.length_append, List.length_singleton]
      eflags := (loadChar_eflags c s).trans h.eflags
      wf := by
        rw [finish_frame, loadChar_frame]
        exact writeNibble_wf h.wf hlt'
      byte := loaded_loadChar_byte c h
      bad := fun a ha => loaded_loadChar_bad c h ha }

/-- A run of `PUSH`, by induction on its characters, `before` being those already there. -/
theorem execAll_push_loaded (chars : List Byte) {before : List Byte} {s : State} (h : Loaded before s)
    (hle : before.length + chars.length ≤ 140) :
    ∃ t, execAll (chars.map Instr.push) s = .next t ∧ Loaded (before ++ chars) t := by
  induction chars generalizing before s with
  | nil => exact ⟨s, rfl, by rwa [List.append_nil]⟩
  | cons c chars ih =>
    rw [List.length_cons] at hle
    obtain ⟨u, hpush, hu⟩ := exec_push_loaded c h (by omega)
    obtain ⟨t, hrun, ht⟩ := ih hu (by rw [List.length_append, List.length_singleton]; omega)
    refine ⟨t, (execAll_cons _ hpush).trans hrun, ?_⟩
    rwa [List.append_assoc, List.singleton_append] at ht

/-- `COMMIT` with 140 characters loaded (40_frame_control.md R73). -/
theorem exec_commit_loaded {chars : List Byte} {s : State} (h : Loaded chars s) (hlen : chars.length = 140) :
    exec .commit s = .next (finish { s with valid := true } (result0 140)) := by
  have hcnt : s.cnt.toNat = 140 := h.cnt.trans hlen
  rw [exec, execCommit, if_neg (by simp [h.valid]), if_neg (by omega), if_neg (by omega)]
  rfl

/-- `LOADHEX` of 140 characters: the frame that the `PUSH`es loaded, committed. -/
theorem execAll_loadHex {chars : List Byte} (s : State) (hlen : chars.length = 140) :
    ∃ t, Loaded chars t ∧
      execAll (loadHex chars) s = .next (finish { t with valid := true } (result0 140)) := by
  obtain ⟨s₀, hclr, hcleared⟩ := exec_clr_loaded s
  obtain ⟨t, hpush, hloaded⟩ := execAll_push_loaded chars hcleared (by simp [hlen])
  refine ⟨t, hloaded, ?_⟩
  rw [loadHex, List.cons_append, execAll_cons _ hclr, execAll_append _ hpush,
    execAll_cons _ (exec_commit_loaded hloaded hlen), execAll]

/-- Settles O27: `COMMIT` leaves what `Loaded` says of the frame, and all 140 characters are there to be named. -/
theorem loadHexLoadsFrame : Obligations.LoadHexLoadsFrame := by
  intro chars s hlen
  obtain ⟨t, hloaded, hrun⟩ := execAll_loadHex s hlen
  refine ⟨_, hrun, rfl, BitVec.eq_of_toNat_eq (hloaded.cnt.trans hlen), rfl, rfl, hloaded.eflags, fun a ha => ?_⟩
  have hc : chars[2 * a]? = some _ := List.getElem?_eq_getElem (by omega)
  have hd : chars[2 * a + 1]? = some _ := List.getElem?_eq_getElem (by omega)
  refine ⟨_, _, hc, hd, ?_, ?_⟩
  · rw [← nibbleOf_of_getElem? hc, ← nibbleOf_of_getElem? hd]
    exact hloaded.byte a
  · rw [Bool.decide_or, ← nonDigit_of_getElem? hc, ← nonDigit_of_getElem? hd]
    exact hloaded.bad a ha

end Sys2Proof.Proofs.EncodingRules
end

section
/-! SUPPORT. Proofs of the statements of 40_frame_control.md: what `CLR` (R71), `PUSH` (R72), `COMMIT` (R73) and `STAT`
(R74) do in each case, and the life of one frame (R75). -/

namespace Sys2Proof.Proofs.FrameControlRules

open Sys2Proof Sys2Proof.Machine

/-! ### The phases (R75) -/

theorem phase_committed_iff {s : State} : phase s = .committed ↔ s.valid = true := by
  unfold phase
  split_ifs with hv hc <;> simp [hv]

theorem phase_loading_iff {s : State} : phase s = .loading ↔ s.valid = false ∧ s.cnt ≠ 0 := by
  unfold phase
  split_ifs with hv hc
  · simp [hv]
  · exact ⟨nofun, fun h => absurd hc h.2⟩
  · exact ⟨fun _ => ⟨Bool.eq_false_of_not_eq_true hv, hc⟩, fun _ => rfl⟩

/-- The phase is a function of `VALID` and `CNT`. -/
theorem phase_congr {s t : State} (hvalid : t.valid = s.valid) (hcnt : t.cnt = s.cnt) : phase t = phase s := by
  rw [phase, phase, hvalid, hcnt]

/-! ### STAT (R74) and CLR (R71) -/

/-- `FIRSTBAD` is the least marked offset, or 70 (10_state.md R19). -/
theorem firstBadView_least (s : State) :
    firstBadView s.bad ≤ 70 ∧ (∀ a, a < firstBadView s.bad → s.bad.getLsbD a = false) ∧
      (firstBadView s.bad < 70 → s.bad.getLsbD (firstBadView s.bad) = true) := by
  unfold firstBadView
  cases h : firstBad s.bad 0 70 with
  | none =>
    have hclean := firstBad_eq_none.1 h
    exact ⟨le_rfl, fun a ha => by simpa using hclean a ha, fun hlt => absurd hlt (lt_irrefl 70)⟩
  | some k =>
    obtain ⟨-, hlt, hmarked, hleast⟩ := firstMarked_of_firstBad h
    simp only [Nat.sub_zero, Nat.zero_add] at hlt hmarked hleast
    exact ⟨hlt.le, hleast, fun _ => hmarked⟩

theorem exec_stat (s : State) :
    exec .stat s = .next (okWith s (BitVec.ofNat 64 s.cnt.toNat) (if s.valid then 1 else 0)
      (BitVec.ofNat 64 s.eflags.toNat) (BitVec.ofNat 64 (firstBadView s.bad))) := by
  have hvalid : regOfNat s.valid.toNat = if s.valid then 1 else 0 := by cases s.valid <;> rfl
  rw [exec, execStat, finish_eq_okWith, hvalid]
  rfl

/-- Settles O26: `FIRSTBAD` is the offset asked for. -/
theorem statReportsControl : Obligations.StatReportsControl := by
  refine ⟨rfl, fun s => ?_⟩
  obtain ⟨hle, hclean, hmarked⟩ := firstBadView_least s
  exact ⟨firstBadView s.bad, hle, hclean, hmarked, exec_stat s⟩

theorem firstBadView_zero : firstBadView 0 = 70 := by
  have hclean : firstBad 0 0 70 = none := (firstBad_eq_none (s := State.reset)).2 fun _ _ => BitVec.getLsbD_zero
  rw [firstBadView, hclean, Option.getD_none]

/-- Settles O23: the `STAT` after it finds no marked byte. -/
theorem clrClearsFrame : Obligations.ClrClearsFrame := by
  refine ⟨rfl, fun s => ⟨_, rfl, read_nil, rfl, rfl, rfl, rfl, rfl, rfl, rfl, ?_⟩⟩
  rw [exec_stat, finish_bad, firstBadView_zero]
  rfl

/-! ### COMMIT (R73), case by case -/

theorem exec_commit_locked {s : State} (hv : s.valid = true) : exec .commit s = .next (faultWith s 5 0) := by
  rw [exec, execCommit, if_pos hv]
  rfl

theorem exec_commit_empty {s : State} (hv : s.valid = false) (hcnt : s.cnt.toNat = 0) :
    exec .commit s = .next (faultWith s 3 0) := by
  rw [exec, execCommit, if_neg (by simp [hv]), if_pos hcnt]
  rfl

theorem exec_commit_length {s : State} (hv : s.valid = false) (hempty : s.cnt.toNat ≠ 0) (hfull : s.cnt.toNat ≠ 140) :
    exec .commit s = .next (faultWith s 4 s.cnt.toNat) := by
  rw [exec, execCommit, if_neg (by simp [hv]), if_neg hempty, if_pos hfull]
  rfl

theorem exec_commit_full {s : State} (hv : s.valid = false) (hcnt : s.cnt.toNat = 140) :
    exec .commit s = .next (okWith { s with valid := true } 140 0 0 0) := by
  rw [exec, execCommit, if_neg (by simp [hv]), if_neg (by omega), if_neg (by omega)]
  rfl

/-- Settles O25, one case of `COMMIT` each. -/
theorem commitChecksLength : Obligations.CommitChecksLength := by
  refine ⟨rfl, fun s => ⟨exec_commit_locked, fun hv hcnt => ?_, fun hv hempty hfull => ?_, fun hv hcnt => ?_⟩⟩
  · exact exec_commit_empty hv (by rw [hcnt]; rfl)
  · exact exec_commit_length hv (fun h => hempty (BitVec.eq_of_toNat_eq h)) fun h => hfull (BitVec.eq_of_toNat_eq h)
  · exact exec_commit_full hv (by rw [hcnt]; rfl)

/-! ### PUSH (R72), case by case -/

theorem exec_push_locked (ch : Byte) {s : State} (hv : s.valid = true) :
    exec (.push ch) s = .next (faultWith s 5 0) := by
  rw [exec, execPush, if_pos hv]
  rfl

theorem exec_push_dropped (ch : Byte) {s : State} (hv : s.valid = false) (hcnt : 140 ≤ s.cnt.toNat) :
    exec (.push ch) s = .next (okWith { s with cnt := 141 } 141 0 0 0) := by
  rw [exec, execPush, if_neg (by simp [hv])]
  simp only [ge_iff_le, if_pos hcnt]
  rfl

theorem exec_push_loads (ch : Byte) {s : State} (hv : s.valid = false) (hcnt : s.cnt.toNat < 140) :
    exec (.push ch) s = .next (okWith (loadChar ch s) (BitVec.ofNat 64 (s.cnt.toNat + 1)) 0 0 0) := by
  rw [exec, execPush, if_neg (by simp [hv])]
  simp only [ge_iff_le, if_neg (not_le.2 hcnt)]
  rw [StateRules.loadChar_cnt_toNat ch hcnt]
  rfl

/-- Loading a character changes `FRAME`, `BAD` and `CNT` only. -/
theorem loadChar_eq (ch : Byte) (s : State) :
    loadChar ch s = { s with frame := (loadChar ch s).frame, bad := (loadChar ch s).bad, cnt := s.cnt + 1 } := by
  unfold loadChar
  cases hexDigit ch <;> rfl

/-- Loading a character marks its own byte, and that only when it is no digit (10_state.md R11). -/
theorem loadChar_bad_getLsbD (ch : Byte) (s : State) {a : Nat} (ha : a < 70) :
    (loadChar ch s).bad.getLsbD a =
      (s.bad.getLsbD a || (decide (a = s.cnt.toNat / 2) && decide (hexDigit ch = none))) := by
  rw [loadChar_bad]
  split
  · next hdigit => rw [markBad_getLsbD _ _ _ ha, decide_eq_true hdigit, Bool.and_true]
  · next hdigit => rw [decide_eq_false hdigit, Bool.and_false, Bool.or_false]

/-- Settles O24, one case of `PUSH` each; the stored memory and marks are those of `loadChar`. -/
theorem pushAppendsCharacter : Obligations.PushAppendsCharacter := by
  refine ⟨Scope.decode_encode_push, fun ch s => ⟨exec_push_locked ch, exec_push_dropped ch, fun hv hcnt => ?_⟩⟩
  refine ⟨(loadChar ch s).frame, (loadChar ch s).bad, ?_, fun a ha => ?_, StateRules.byteAt_loadChar_even ch,
    EncodingRules.byteAt_loadChar_odd ch, fun a => loadChar_bad_getLsbD ch s⟩
  · rw [← loadChar_eq]
    exact exec_push_loads ch hv hcnt
  · rw [loadChar_frame]
    exact read_writeNibble_other _ _ ha

/-! ### The life of one frame (R75), command by command -/

theorem phase_push_locked {ch : Byte} {s t : State} (h : exec (.push ch) s = .next t) (hs : phase s = .committed) :
    phase t = .committed := by
  have hv := phase_committed_iff.1 hs
  rw [exec_push_locked ch hv] at h
  cases h
  exact phase_committed_iff.2 hv

/-- `PUSH` into an open frame: the count is not 0 afterwards, saturated or one more. -/
theorem phase_push_open {ch : Byte} {s t : State} (h : exec (.push ch) s = .next t) (hs : phase s ≠ .committed) :
    phase t = .loading := by
  have hv : s.valid = false := by simpa [phase_committed_iff] using hs
  rw [phase_loading_iff]
  rcases le_or_gt 140 s.cnt.toNat with hfull | hroom
  · rw [exec_push_dropped ch hv hfull] at h
    cases h
    exact ⟨hv, (by decide : (141 : BitVec 8) ≠ 0)⟩
  · rw [exec_push_loads ch hv hroom] at h
    cases h
    refine ⟨(loadChar_valid ch s).trans hv, fun hzero => ?_⟩
    have hcnt := StateRules.loadChar_cnt_toNat ch hroom
    rw [okWith_cnt] at hzero
    rw [hzero] at hcnt
    exact Nat.succ_ne_zero _ hcnt.symm

theorem phase_commit_full {s t : State} (h : exec .commit s = .next t) (hs : phase s = .loading)
    (hcnt : s.cnt.toNat = 140) : phase t = .committed := by
  obtain ⟨hv, -⟩ := phase_loading_iff.1 hs
  rw [exec_commit_full hv hcnt] at h
  cases h
  rfl

/-- `COMMIT` in any other state raises, and a raise leaves the phase. -/
theorem phase_commit_other {s t : State} (h : exec .commit s = .next t)
    (hs : ¬(phase s = .loading ∧ s.cnt.toNat = 140)) : phase t = phase s := by
  rcases execCommit_next h with ⟨e, -, rfl⟩ | ⟨hv, hcnt, -⟩
  · exact phase_congr rfl rfl
  · have hne : s.cnt ≠ 0 := by
      intro hzero
      simp [hzero] at hcnt
    exact absurd ⟨phase_loading_iff.2 ⟨hv, hne⟩, hcnt⟩ hs

theorem phase_stat {s t : State} (h : exec .stat s = .next t) : phase t = phase s := by
  rw [exec_stat] at h
  cases h
  exact phase_congr rfl rfl

theorem phase_accessor {i : Instr} {s t : State} (ha : isAccessor i = true) (h : exec i s = .next t) :
    phase t = phase s := by
  obtain ⟨-, -, hcnt, hvalid, -⟩ := MemoryRules.exec_accessor_keeps_frame ha h
  exact phase_congr hvalid hcnt

/-- An accessor finishes `OK` on a committed frame only (60_exceptions.md R203). -/
theorem phase_of_accessor_ok {i : Instr} {s t : State} (ha : isAccessor i = true) (h : exec i s = .next t)
    (herr : t.err = 0) : phase s = .committed := by
  rcases exec_accessor_next ha h with ⟨hv, -⟩ | ⟨e, he, rfl⟩
  · exact phase_committed_iff.2 hv
  · exact absurd herr (StateRules.errCode_ne_zero he)

/-- Settles O21, by the moves of each command. They hold in every state, so the invariant is not used. -/
theorem lifeCycle : Obligations.LifeCycle := by
  intro i s t _ h
  refine ⟨?_, ?_, ?_, ?_, fun ha => phase_of_accessor_ok ha h⟩
  · rintro rfl
    cases h
    rfl
  · rintro ch rfl
    exact ⟨phase_push_locked h, phase_push_open h⟩
  · rintro rfl
    exact ⟨phase_commit_full h, phase_commit_other h⟩
  · rintro (rfl | ha)
    · exact phase_stat h
    · exact phase_accessor ha h

end Sys2Proof.Proofs.FrameControlRules
end

section
/-! SUPPORT. Proofs of the statements of 41_accessor.md: the bit groups (R90), the range commands `GETB`, `GETR`, `BFX`
and `INVB` (R91 to R94), the named bit groups (R95), and the laws of the text helpers (R81 to R88). -/

namespace Sys2Proof.Proofs.AccessorRules

open Sys2Proof Sys2Proof.Machine

/-! ### Bit groups (R90) -/

/-- A bit group is the `wid` bits of the field from `groupLow` upward. -/
theorem bitfield_testBit (v w : Nat) (dir : BitDir) (pos wid j : Nat) :
    (bitfield v w dir pos wid).testBit j = (decide (j < wid) && v.testBit (groupLow w dir pos wid + j)) := by
  rw [bitfield, Nat.testBit_mod_two_pow, Nat.testBit_div_two_pow, Nat.add_comm j]

/-- Settles O31: the two directions differ in `groupLow` alone. -/
theorem bitGroupBits : Obligations.BitGroupBits :=
  fun v w pos wid j _ _ => ⟨bitfield_testBit v w .lsb pos wid j, bitfield_testBit v w .msb pos wid j⟩

/-! ### Reads behind a count check (R91) -/

theorem accessor_countChecked_bad {s : State} {cnt : Nat} (rest : Answer) (hv : s.valid = true)
    (hcnt : cnt = 0 ∨ 8 < cnt) : accessor s (countChecked cnt rest) = .next (faultWith s 6 cnt) := by
  rw [countChecked_bad rest hcnt]
  exact accessor_error hv

/-- A field read past the end of the frame, which the selectors of the layout never are. -/
theorem fieldRead_range {s : State} {fo fn : Nat} (o : ByteOrder) (f : Nat → Results) (hv : s.valid = true)
    (h : 70 < fo + fn) : fieldRead s fo fn o f = .next (faultWith s 6 (fo + fn)) := by
  rw [fieldRead, readThen_range _ h]
  exact accessor_error hv

/-- The command checks its count and then reads its range as one number, its results being `g` of the number. -/
def ReadsRange (i : Instr) (off cnt : Nat) (o : ByteOrder) (g : Nat → Results) : Prop :=
  ∀ s, exec i s = accessor s (countChecked cnt (readThen s off cnt fun bs => g (orderValue o bs)))

theorem readsRange_getb (off cnt : Nat) : ReadsRange (.getb off cnt) off cnt .be (rangeResults cnt) :=
  fun _ => rfl

theorem readsRange_getr (off cnt : Nat) : ReadsRange (.getr off cnt) off cnt .le (rangeResults cnt) :=
  fun _ => rfl

theorem readsRange_invb (off cnt : Nat) (rev : ByteOrder) :
    ReadsRange (.invb off cnt rev) off cnt rev fun v => rangeResults cnt (complementBits (8 * cnt) v) :=
  fun _ => rfl

/-- With a legal count such a command is a field read. -/
theorem exec_of_readsRange {i : Instr} {off cnt : Nat} {o : ByteOrder} {g : Nat → Results}
    (h : ReadsRange i off cnt o g) (h1 : 1 ≤ cnt) (h8 : cnt ≤ 8) (s : State) :
    exec i s = fieldRead s off cnt o g := by
  rw [h s, countChecked_good _ h1 h8, fieldRead]

theorem exec_of_readsRange_ok {i : Instr} {off cnt : Nat} {o : ByteOrder} {g : Nat → Results}
    (h : ReadsRange i off cnt o g) {s : State} (hv : s.valid = true) (h1 : 1 ≤ cnt) (h8 : cnt ≤ 8)
    (hb : off + cnt ≤ 70) (hr : readable s off cnt) :
    exec i s = .next (finish s (g (orderValue o (bytesAt s off cnt)))) := by
  rw [exec_of_readsRange h h1 h8, fieldRead_ok o g hb hv hr]

/-- The faults of such a command, in the order of its checks. -/
theorem rangeFaults_of_readsRange {i : Instr} {off cnt : Nat} {o : ByteOrder} {g : Nat → Results}
    (h : ReadsRange i off cnt o g) (s : State) : rangeFaults i s off cnt := by
  refine ⟨fun hv => ?invalid, fun hv hcnt => ?count, fun hv h1 h8 hend => ?range, fun k hv h1 h8 hb hm => ?marked⟩
  case invalid => rw [h s, accessor_invalid _ hv]
  case count => rw [h s, accessor_countChecked_bad _ hv hcnt]
  case range => rw [exec_of_readsRange h h1 h8, fieldRead_range o g hv hend]
  case marked => rw [exec_of_readsRange h h1 h8, fieldRead_marked o g hb hv hm]

theorem wellFormed_range {off cnt : Nat} (hoff : off < 128) (hcnt : cnt < 128) : rangeFits off cnt = true := by
  simp only [rangeFits, hoff, hcnt, decide_true, Bool.and_true]

/-- The `REV` bit at its place in the word (30_encoding.md R53). -/
theorem orderBit_mul (rev : ByteOrder) (p : Nat) : rev.bit * p = if rev = .le then p else 0 := by
  cases rev
  · exact Nat.zero_mul p
  · exact Nat.one_mul p

/-- The `DIR` bit at its place in the word (30_encoding.md R54). -/
theorem dirBit_mul (dir : BitDir) (p : Nat) : dir.bit * p = if dir = .msb then p else 0 := by
  cases dir
  · exact Nat.zero_mul p
  · exact Nat.one_mul p

/-- Settles O34: `GETB` is a checked range read in string order. -/
theorem getbReadsStringOrder : Obligations.GetbReadsStringOrder := by
  refine fun off cnt => ⟨fun hoff hcnt => Scope.decode_encode_getb (wellFormed_range hoff hcnt), fun s => ⟨?_, ?_⟩⟩
  · exact fun hv h1 h8 hb hr => exec_of_readsRange_ok (readsRange_getb off cnt) hv h1 h8 hb hr
  · exact rangeFaults_of_readsRange (readsRange_getb off cnt) s

/-- What `MemRead` answers is the bytes of the range (20_memory.md R31). -/
theorem bytesAt_of_memRead {s : State} {a n : Nat} {bs : List Byte} (h : memRead s a n = .ok bs) :
    bs = bytesAt s a n := by
  unfold memRead at h
  split at h
  · cases h
  · split at h
    · cases h
    · exact (Except.ok.inj h).symm

/-- One byte reads the same in either order, faults included (R92). -/
theorem fieldRead_one_order (s : State) (a : Nat) (o o' : ByteOrder) (g : Nat → Results) :
    fieldRead s a 1 o g = fieldRead s a 1 o' g := by
  unfold fieldRead readThen
  cases hread : memRead s a 1 with
  | error e => rfl
  | ok bs =>
    obtain rfl := bytesAt_of_memRead hread
    simp only [MemoryRules.orderValue_bytesAt_one]

theorem exec_getr_one (off : Nat) (s : State) : exec (.getr off 1) s = exec (.getb off 1) s := by
  rw [exec_of_readsRange (readsRange_getr off 1) (by decide) (by decide),
    exec_of_readsRange (readsRange_getb off 1) (by decide) (by decide), fieldRead_one_order s off .le .be]

/-- Settles O35: `GETR` is a checked range read in reversed order. -/
theorem getrReadsReversedOrder : Obligations.GetrReadsReversedOrder := by
  refine fun off cnt =>
    ⟨fun hoff hcnt => Scope.decode_encode_getr (wellFormed_range hoff hcnt), fun s => ⟨?_, ?_, exec_getr_one off s⟩⟩
  · exact fun hv h1 h8 hb hr => exec_of_readsRange_ok (readsRange_getr off cnt) hv h1 h8 hb hr
  · exact rangeFaults_of_readsRange (readsRange_getr off cnt) s

/-- Settles O37: `INVB` is a checked range read of the complement. -/
theorem invbComplementsRange : Obligations.InvbComplementsRange := by
  refine fun off cnt rev => ⟨fun hoff hcnt => ?word, fun s => ⟨fun hv h1 h8 hb hr => ?value, ?faults⟩⟩
  case word =>
    rw [← orderBit_mul]
    exact Scope.decode_encode_invb rev (wellFormed_range hoff hcnt)
  case value =>
    rw [← MemoryRules.orderValue_eq_ite]
    exact exec_of_readsRange_ok (readsRange_invb off cnt rev) hv h1 h8 hb hr
  case faults => exact rangeFaults_of_readsRange (readsRange_invb off cnt rev) s

/-! ### BFX (R93) -/

/-- The two results of a bit group, its value and its width, from the number of the range. -/
def groupResults (cnt : Nat) (dir : BitDir) (pos wid v : Nat) : Results :=
  ⟨regOfNat (bitfield v (8 * cnt) dir pos wid), regOfNat wid, 0, 0⟩

/-- `BFX` with its three checks before the read. -/
theorem exec_bfx (off cnt pos wid : Nat) (rev : ByteOrder) (dir : BitDir) (s : State) :
    exec (.bfx off cnt rev dir pos wid) s = accessor s (countChecked cnt (groupChecked (8 * cnt) pos wid
      (readThen s off cnt fun bs => groupResults cnt dir pos wid (orderValue rev bs)))) := rfl

theorem exec_bfx_group_bad {off cnt pos wid : Nat} {rev : ByteOrder} {dir : BitDir} {s : State} (hv : s.valid = true)
    (h1 : 1 ≤ cnt) (h8 : cnt ≤ 8) (hgroup : wid = 0 ∨ 8 * cnt < pos + wid) :
    exec (.bfx off cnt rev dir pos wid) s = .next (faultWith s 6 (pos + wid)) := by
  rw [exec_bfx, countChecked_good _ h1 h8, groupChecked, if_pos hgroup]
  exact accessor_error hv

/-- Past its checks `BFX` is a field read. -/
theorem exec_bfx_eq_fieldRead {off cnt pos wid : Nat} (rev : ByteOrder) (dir : BitDir) (h1 : 1 ≤ cnt) (h8 : cnt ≤ 8)
    (hwid : 1 ≤ wid) (hgroup : pos + wid ≤ 8 * cnt) (s : State) :
    exec (.bfx off cnt rev dir pos wid) s = fieldRead s off cnt rev (groupResults cnt dir pos wid) := by
  rw [exec_bfx, countChecked_good _ h1 h8, groupChecked, if_neg (by omega), fieldRead]

theorem wellFormed_bfx {off cnt pos wid : Nat} (rev : ByteOrder) (dir : BitDir) (hoff : off < 128) (hcnt : cnt < 16)
    (hpos : pos < 64) (hwid : wid < 64) : (Instr.bfx off cnt rev dir pos wid).wellFormed = true := by
  simp only [Instr.wellFormed, hoff, hcnt, hpos, hwid, decide_true, Bool.and_true]

/-- Settles O36, check by check; past the count and the group `BFX` is a field read. -/
theorem bfxExtractsGroup : Obligations.BfxExtractsGroup := by
  refine fun off cnt pos wid rev dir => ⟨fun hoff hcnt hpos hwid => ?word, fun s =>
    ⟨accessor_invalid _, accessor_countChecked_bad _, fun hv h1 h8 =>
      ⟨exec_bfx_group_bad hv h1 h8, fun hwid hgroup => ?read⟩⟩⟩
  case word =>
    rw [← orderBit_mul, ← dirBit_mul]
    exact Scope.decode_encode_bfx (wellFormed_bfx rev dir hoff hcnt hpos hwid)
  case read =>
    rw [exec_bfx_eq_fieldRead rev dir h1 h8 hwid hgroup, ← MemoryRules.orderValue_eq_ite]
    exact ⟨fieldRead_range rev _ hv, fun k hb hm => fieldRead_marked rev _ hb hv hm,
      fun hb hr => fieldRead_ok rev _ hb hv hr⟩

/-! ### The named bit groups (R95) -/

/-- Two field reads of one field fault alike, and agree in `R[0]` when their results do. -/
theorem fieldRead_agree (s : State) (fo fn : Nat) (o : ByteOrder) {f g : Nat → Results}
    (h : ∀ v, (f v).r0 = (g v).r0) :
    ∃ t u : State, fieldRead s fo fn o f = .next t ∧ fieldRead s fo fn o g = .next u ∧ t.err = u.err ∧
      t.r.r0 = u.r.r0 := by
  unfold fieldRead accessor readThen
  split_ifs
  · cases memRead s fo fn with
    | error e => exact ⟨_, _, rfl, rfl, rfl, rfl⟩
    | ok bs => exact ⟨_, _, rfl, rfl, rfl, h (orderValue o bs)⟩
  · exact ⟨_, _, rfl, rfl, rfl, rfl⟩

/-- `v[hi:lo]` is a bit group of a `w`-bit field, counted from the end that puts its lowest bit at `lo`. -/
theorem bitfield_eq_bitSlice {w hi lo pos wid : Nat} {dir : BitDir} (v : Nat) (hlow : groupLow w dir pos wid = lo)
    (hlen : hi + 1 - lo = wid) : bitfield v w dir pos wid = bitSlice v hi lo := by
  rw [bitfield, bitSlice, hlow, hlen]

/-- A selector of the bits `hi` to `lo` of a field agrees with the `BFX` form of the same bits. -/
theorem selector_agrees_bfx {sel : Instr} {off cnt pos wid : Nat} {rev : ByteOrder} {dir : BitDir} (hi lo : Nat)
    (hsel : ∀ s, exec sel s = fieldRead s off cnt rev fun v => result0 (regOfNat (bitSlice v hi lo)))
    (hbits : groupLow (8 * cnt) dir pos wid = lo ∧ hi + 1 - lo = wid)
    (hlegal : (1 ≤ cnt ∧ cnt ≤ 8) ∧ 1 ≤ wid ∧ pos + wid ≤ 8 * cnt) (s : State) :
    ∃ t u : State, exec sel s = .next t ∧ exec (.bfx off cnt rev dir pos wid) s = .next u ∧ t.err = u.err ∧
      t.r.r0 = u.r.r0 := by
  obtain ⟨hlow, hlen⟩ := hbits
  obtain ⟨⟨h1, h8⟩, hwid, hgroup⟩ := hlegal
  rw [hsel, exec_bfx_eq_fieldRead rev dir h1 h8 hwid hgroup]
  exact fieldRead_agree s off cnt rev fun v => congrArg regOfNat (bitfield_eq_bitSlice v hlow hlen).symm

/-- Settles O38, row by row: the slice `hi:lo` of each selector is the group of its `BFX` form. -/
theorem namedGroupsAreBfxForms : Obligations.NamedGroupsAreBfxForms := by
  unfold Obligations.NamedGroupsAreBfxForms
  simp only [namedGroups, List.forall_mem_cons]
  exact ⟨selector_agrees_bfx 4 0 (fun _ => rfl) (by decide) (by decide),
    selector_agrees_bfx 7 5 (fun _ => rfl) (by decide) (by decide),
    selector_agrees_bfx 15 11 (fun _ => rfl) (by decide) (by decide),
    selector_agrees_bfx 10 6 (fun _ => rfl) (by decide) (by decide),
    selector_agrees_bfx 5 0 (fun _ => rfl) (by decide) (by decide), List.forall_mem_nil _⟩

/-! ### Reading a text character by character (R81, R84, R87, R88) -/

/-- A total reading of a list reads each of its items. -/
theorem mapM_eq_some_iff {α β : Type} {f : α → Option β} {l : List α} {u : List β} :
    l.mapM f = some u ↔ List.Forall₂ (fun a b => f a = some b) l u := by
  induction l generalizing u with
  | nil => simp [eq_comm]
  | cons a l ih =>
    simp only [List.mapM_cons, Option.bind_eq_bind, Option.bind_eq_some_iff, Option.pure_def, Option.some.injEq, ih,
      List.forall₂_cons_left_iff]
    constructor
    · rintro ⟨b, hb, v, hv, rfl⟩
      exact ⟨b, v, hb, hv, rfl⟩
    · rintro ⟨b, v, hb, hv, rfl⟩
      exact ⟨b, hb, v, hv, rfl⟩

/-- What holds of every value that a reading can give holds of all the values read. -/
theorem forall_mem_of_forall₂ {α β : Type} {R : α → β → Prop} {p : β → Prop} {l : List α} {u : List β}
    (h : List.Forall₂ R l u) (hp : ∀ a b, R a b → p b) : ∀ b ∈ u, p b := by
  induction h with
  | nil => exact List.forall_mem_nil p
  | cons hab _ ih => exact List.forall_mem_cons.2 ⟨hp _ _ hab, ih⟩

theorem textDigits_eq_mapM (digit : Char → Option Nat) (h : Text) : textDigits digit h = h.mapM digit := by
  induction h with
  | nil => rfl
  | cons c h ih =>
    rw [textDigits, ih, List.mapM_cons]
    cases digit c <;> cases h.mapM digit <;> rfl

theorem groupBytes_eq_mapM (gs : List (Char × Char)) : groupBytes gs = gs.mapM groupByte := by
  induction gs with
  | nil => rfl
  | cons g gs ih =>
    rw [groupBytes, ih, List.mapM_cons]
    cases groupByte g <;> cases gs.mapM groupByte <;> rfl

theorem invertBits_eq_mapM (b : Text) : invertBits b = b.mapM invertBit := by
  induction b with
  | nil => rfl
  | cons c b ih =>
    rw [invertBits, ih, List.mapM_cons]
    cases invertBit c <;> cases b.mapM invertBit <;> rfl

/-- The characters of a text are these digits. -/
def SpellsDigits (digit : Char → Option Nat) (h : Text) (ds : List Nat) : Prop :=
  List.Forall₂ (fun c d => digit c = some d) h ds

/-- A numeral is a nonempty text of digits, and its value is theirs. -/
theorem numeralValue_eq_some_iff {b v : Nat} {digit : Char → Option Nat} {h : Text} :
    numeralValue b digit h = some v ↔ h ≠ [] ∧ ∃ ds, SpellsDigits digit h ds ∧ digitsValue b ds = v := by
  rw [numeralValue, textDigits_eq_mapM]
  split_ifs with hempty
  · simp [hempty]
  · simp [hempty, Option.map_eq_some_iff, mapM_eq_some_iff, SpellsDigits]

/-! ### The value of digits -/

theorem digitsValue_eq_ofDigits (b : Nat) (ds : List Nat) : digitsValue b ds = Nat.ofDigits b ds.reverse := by
  rw [digitsValue, Nat.ofDigits_eq_foldr, List.foldr_reverse]
  simp only [add_comm, mul_comm, Nat.cast_id]

/-- The first digit weighs above all that follow. -/
theorem digitsValue_cons (b d : Nat) (ds : List Nat) :
    digitsValue b (d :: ds) = d * b ^ ds.length + digitsValue b ds := by
  rw [digitsValue_eq_ofDigits, digitsValue_eq_ofDigits, List.reverse_cons, Nat.ofDigits_append, Nat.ofDigits_singleton,
    List.length_reverse]
  ring

/-! ### reverse_byte_order (R85) -/

theorem byteGroups_joinGroups (gs : List (Char × Char)) : byteGroups (joinGroups gs) = some gs := by
  induction gs with
  | nil => rfl
  | cons g gs ih => rw [joinGroups, byteGroups, ih, Option.map_some]

theorem length_joinGroups (gs : List (Char × Char)) : (joinGroups gs).length = 2 * gs.length := by
  induction gs with
  | nil => rfl
  | cons g gs ih => rw [joinGroups, List.length_cons, List.length_cons, ih, List.length_cons]; ring

/-- A text has byte groups exactly when it is the text of these groups. -/
theorem byteGroups_eq_some_iff {h : Text} {gs : List (Char × Char)} : byteGroups h = some gs ↔ h = joinGroups gs := by
  refine ⟨fun hg => ?_, fun hg => hg ▸ byteGroups_joinGroups gs⟩
  induction h using byteGroups.induct generalizing gs with
  | case1 => cases hg; rfl
  | case2 c => cases hg
  | case3 a b rest ih =>
    obtain ⟨tail, htail, rfl⟩ := Option.map_eq_some_iff.1 hg
    rw [joinGroups, ← ih htail]

/-- Every text of even length is the text of some byte groups. -/
theorem exists_joinGroups {h : Text} (heven : h.length % 2 = 0) : ∃ gs, h = joinGroups gs := by
  induction h using byteGroups.induct with
  | case1 => exact ⟨[], rfl⟩
  | case2 c => cases heven
  | case3 a b rest ih =>
    have hrest : rest.length % 2 = 0 := by
      rw [List.length_cons, List.length_cons] at heven
      omega
    obtain ⟨gs, rfl⟩ := ih hrest
    exact ⟨(a, b) :: gs, rfl⟩

theorem reverseByteOrder_joinGroups (gs : List (Char × Char)) :
    reverseByteOrder (joinGroups gs) = some (joinGroups gs.reverse) := by
  rw [reverseByteOrder, byteGroups_joinGroups, Option.map_some]

/-- The value of a hexadecimal digit is below 16 (20_memory.md R33). -/
theorem charHex_lt {c : Char} {d : Nat} (h : charHex c = some d) : d < 16 := by
  unfold charHex at h
  split at h
  · exact hexDigit_lt h
  · cases h

/-- A byte group spells a byte by its two nibbles, the high one first. -/
theorem groupByte_eq_some {g : Char × Char} {b : Nat} (h : groupByte g = some b) :
    b < 256 ∧ charHex g.1 = some (b / 16) ∧ charHex g.2 = some (b % 16) := by
  unfold groupByte at h
  split at h
  · next hi lo hhi hlo =>
    have hhi16 := charHex_lt hhi
    have hlo16 := charHex_lt hlo
    obtain rfl := Option.some.inj h
    have hdiv : (hi * 16 + lo) / 16 = hi := by omega
    have hmod : (hi * 16 + lo) % 16 = lo := by omega
    exact ⟨by omega, hdiv.symm ▸ hhi, hmod.symm ▸ hlo⟩
  · cases h

/-- These groups spell these bytes. -/
def SpellsBytes (gs : List (Char × Char)) (bs : List Nat) : Prop :=
  List.Forall₂ (fun g b => groupByte g = some b) gs bs

/-- The nibbles of a list of bytes, the high one of each first. -/
def nibbles (bs : List Nat) : List Nat :=
  bs.flatMap fun b => [b / 16, b % 16]

theorem spellsDigits_nibbles {gs : List (Char × Char)} {bs : List Nat} (h : SpellsBytes gs bs) :
    SpellsDigits charHex (joinGroups gs) (nibbles bs) := by
  induction h with
  | nil => exact .nil
  | cons hg _ ih =>
    obtain ⟨-, hhigh, hlow⟩ := groupByte_eq_some hg
    exact .cons hhigh (.cons hlow ih)

/-- Two nibbles weigh as much as their byte. -/
theorem digitsValue_nibbles (bs : List Nat) : digitsValue 16 (nibbles bs) = digitsValue 256 bs := by
  induction bs with
  | nil => rfl
  | cons b bs ih =>
    have hlen : (nibbles bs).length = 2 * bs.length := by simp [nibbles, mul_comm]
    have hcons : nibbles (b :: bs) = b / 16 :: b % 16 :: nibbles bs := rfl
    have hpow : 16 ^ (2 * bs.length) = 256 ^ bs.length := by rw [pow_mul]; norm_num
    have hb : b / 16 * 16 + b % 16 = b := Nat.div_add_mod' b 16
    calc digitsValue 16 (nibbles (b :: bs))
        = b / 16 * 16 ^ (2 * bs.length + 1) + (b % 16 * 16 ^ (2 * bs.length) + digitsValue 256 bs) := by
          rw [hcons, digitsValue_cons, digitsValue_cons, List.length_cons, hlen, ih]
      _ = (b / 16 * 16 + b % 16) * 256 ^ bs.length + digitsValue 256 bs := by rw [pow_succ, hpow]; ring
      _ = digitsValue 256 (b :: bs) := by rw [hb, digitsValue_cons]

/-- Bytes given as numbers have the `be` value of their digits in base 256. -/
theorem be_map_ofNat {bs : List Nat} (h : ∀ b ∈ bs, b < 256) : be (bs.map (BitVec.ofNat 8)) = digitsValue 256 bs := by
  have hbyte : ∀ b ∈ bs, (BitVec.toNat ∘ BitVec.ofNat 8) b = b := fun b hb =>
    (BitVec.toNat_ofNat b 8).trans (Nat.mod_eq_of_lt (h b hb))
  rw [be, List.map_map, List.map_congr_left hbyte, List.map_id']

/-- A nonempty text of byte groups reads as `be` of its bytes. -/
theorem hexToDecimal_joinGroups {gs : List (Char × Char)} {bs : List Nat} (hne : joinGroups gs ≠ [])
    (h : SpellsBytes gs bs) : hexToDecimal (joinGroups gs) = some (be (bs.map (BitVec.ofNat 8))) := by
  have hlt : ∀ b ∈ bs, b < 256 := forall_mem_of_forall₂ h fun _ _ hg => (groupByte_eq_some hg).1
  rw [hexToDecimal, numeralValue_eq_some_iff, be_map_ofNat hlt, ← digitsValue_nibbles]
  exact ⟨hne, _, spellsDigits_nibbles h, rfl⟩

theorem joinGroups_reverse_ne_nil {gs : List (Char × Char)} (h : joinGroups gs ≠ []) : joinGroups gs.reverse ≠ [] := by
  rw [← List.length_pos_iff, length_joinGroups] at h ⊢
  rwa [List.length_reverse]

/-- Settles O56: reversing the groups twice gives them back, and the reversed groups spell the reversed bytes. -/
theorem reverseByteOrderLaws : Obligations.ReverseByteOrderLaws := by
  refine ⟨fun h heven => ?involution, fun h gs bs hne hgroups hbytes => ?values⟩
  case involution =>
    obtain ⟨gs, rfl⟩ := exists_joinGroups heven
    refine ⟨_, reverseByteOrder_joinGroups gs, ?_, ?_⟩
    · rw [length_joinGroups, length_joinGroups, List.length_reverse]
    · rw [reverseByteOrder_joinGroups, List.reverse_reverse]
  case values =>
    obtain rfl := byteGroups_eq_some_iff.1 hgroups
    rw [groupBytes_eq_mapM, mapM_eq_some_iff] at hbytes
    refine ⟨hexToDecimal_joinGroups hne hbytes, _, reverseByteOrder_joinGroups gs, ?_⟩
    rw [hexToDecimal_joinGroups (joinGroups_reverse_ne_nil hne) (List.rel_reverse hbytes), List.map_reverse,
      MemoryRules.be_reverse]

/-! ### invert_bits and left_pad (R88, R86) -/

/-- The inverse of a binary digit `d` is `1 - d`. -/
theorem invertBit_of_charBit {c : Char} {d : Nat} (h : charBit c = some d) :
    d ≤ 1 ∧ ∃ c', invertBit c = some c' ∧ charBit c' = some (1 - d) := by
  unfold charBit at h
  split_ifs at h with h0 h1
  · cases h
    exact ⟨by decide, '1', by rw [invertBit, if_pos h0], rfl⟩
  · cases h
    exact ⟨by decide, '0', by rw [invertBit, if_neg h0, if_pos h1], rfl⟩

theorem invertBits_of_spellsDigits {b : Text} {ds : List Nat} (h : SpellsDigits charBit b ds) :
    ∃ c, invertBits b = some c ∧ SpellsDigits charBit c (ds.map (1 - ·)) := by
  simp only [invertBits_eq_mapM, mapM_eq_some_iff]
  induction h with
  | nil => exact ⟨[], .nil, .nil⟩
  | cons hd _ ih =>
    obtain ⟨-, c, hinv, hc⟩ := invertBit_of_charBit hd
    obtain ⟨cs, hinvs, hcs⟩ := ih
    exact ⟨c :: cs, .cons hinv hinvs, .cons hc hcs⟩

/-- A binary number and its complement add up to the number of all ones. -/
theorem digitsValue_complement {ds : List Nat} (h : ∀ d ∈ ds, d ≤ 1) :
    digitsValue 2 (ds.map (1 - ·)) + digitsValue 2 ds + 1 = 2 ^ ds.length := by
  induction ds with
  | nil => rfl
  | cons d ds ih =>
    obtain ⟨hd, hds⟩ := List.forall_mem_cons.1 h
    have hbit : (1 - d) * 2 ^ ds.length + d * 2 ^ ds.length = 2 ^ ds.length := by
      rw [← Nat.add_mul, Nat.sub_add_cancel hd, Nat.one_mul]
    have hrest := ih hds
    rw [List.map_cons, digitsValue_cons, digitsValue_cons, List.length_map, List.length_cons, pow_succ]
    omega

/-- Settles O57: each digit becomes its complement, so the two values add up to all ones. -/
theorem invertBitsAndLeftPad : Obligations.InvertBitsAndLeftPad := by
  refine ⟨fun b v hb => ?invert, rfl, fun v w c => ⟨?length, List.suffix_append _ v⟩⟩
  case invert =>
    obtain ⟨hne, ds, hds, rfl⟩ := numeralValue_eq_some_iff.1 hb
    obtain ⟨c, hinv, hc⟩ := invertBits_of_spellsDigits hds
    have hlen : b.length = ds.length := hds.length_eq
    have hclen : c.length = b.length := by rw [hc.length_eq, List.length_map, hlen]
    have hcne : c ≠ [] := by rwa [← List.length_pos_iff, hclen, List.length_pos_iff]
    have hsum := digitsValue_complement (forall_mem_of_forall₂ hds fun _ _ hd => (invertBit_of_charBit hd).1)
    refine ⟨c, hinv, hclen, numeralValue_eq_some_iff.2 ⟨hcne, _, hc, ?_⟩⟩
    rw [hlen]
    omega
  case length =>
    rw [leftPad, List.length_append, List.length_replicate]
    omega

/-! ### Hexadecimal numerals (R81, R82) -/

/-- With enough fuel the digits of a positive number are the library's, least significant first. -/
theorem digitsLow_eq_digits {b fuel n : Nat} (hb : 1 < b) (hn : n ≠ 0) (hfuel : n < b ^ fuel) :
    digitsLow fuel b n = Nat.digits b n := by
  induction fuel generalizing n with
  | zero =>
    rw [Nat.pow_zero] at hfuel
    omega
  | succ k ih =>
    have hquot : n / b < b ^ k := Nat.div_lt_of_lt_mul (by rwa [← Nat.pow_succ'])
    rw [digitsLow, Nat.digits_def' hb (Nat.pos_of_ne_zero hn)]
    split_ifs with hzero
    · rw [hzero, Nat.digits_zero]
    · rw [ih hzero hquot]

theorem decimalToHex_eq_digits {n : Nat} (hn : n ≠ 0) :
    decimalToHex n = (Nat.digits 16 n).reverse.map digitChar := by
  have hfuel : n < 16 ^ (Nat.log2 n + 1) :=
    Nat.lt_log2_self.trans_le (Nat.pow_le_pow_left (by decide) _)
  rw [decimalToHex, numeral, digitsLow_eq_digits (by decide) hn hfuel]

/-- The character of a digit reads as the digit. -/
theorem charHex_digitChar : ∀ d < 16, charHex (digitChar d) = some d := by decide

theorem digitChar_ne_zero {d : Nat} (hlt : d < 16) (hd : d ≠ 0) : digitChar d ≠ '0' := by
  intro h
  have hread := charHex_digitChar d hlt
  rw [h] at hread
  exact hd (Option.some.inj hread).symm

theorem spellsDigits_map_digitChar {ds : List Nat} (h : ∀ d ∈ ds, d < 16) :
    SpellsDigits charHex (ds.map digitChar) ds :=
  List.forall₂_map_left_iff.2 (List.forall₂_same.2 fun d hd => charHex_digitChar d (h d hd))

theorem hexToDecimal_decimalToHex {n : Nat} (hn : n ≠ 0) : hexToDecimal (decimalToHex n) = some n := by
  rw [decimalToHex_eq_digits hn, hexToDecimal, numeralValue_eq_some_iff]
  refine ⟨?_, _, spellsDigits_map_digitChar fun d hd => ?_, ?_⟩
  · simpa using Nat.digits_ne_nil_iff_ne_zero.2 hn
  · exact Nat.digits_lt_base (by decide) (List.mem_reverse.1 hd)
  · rw [digitsValue_eq_ofDigits, List.reverse_reverse, Nat.ofDigits_digits]

/-- The numeral of a positive number starts with its highest digit, which is not 0. -/
theorem head_decimalToHex_ne_zero {n : Nat} (hn : n ≠ 0) : (decimalToHex n).head? ≠ some '0' := by
  have hne : Nat.digits 16 n ≠ [] := Nat.digits_ne_nil_iff_ne_zero.2 hn
  have hlt : (Nat.digits 16 n).getLast hne < 16 := Nat.digits_lt_base (by decide) (List.getLast_mem hne)
  rw [decimalToHex_eq_digits hn, List.head?_map, List.head?_reverse, List.getLast?_eq_some_getLast hne, Option.map_some]
  exact fun h => digitChar_ne_zero hlt (Nat.getLast_digit_ne_zero 16 hn) (Option.some.inj h)

/-- Settles O58: "0" by evaluation, every other numeral by the library's digits. -/
theorem hexNumeralRoundTrip : Obligations.HexNumeralRoundTrip := by
  refine fun n => ⟨?_, head_decimalToHex_ne_zero, rfl⟩
  by_cases hn : n = 0
  · rw [hn]
    rfl
  · exact hexToDecimal_decimalToHex hn

end Sys2Proof.Proofs.AccessorRules
end

section
/-! SUPPORT. Proofs of the statements of 42_checksum.md: the checksum (R100, R101), `CSUM` (R103) and `EDC` (R104). -/

namespace Sys2Proof.Proofs.ChecksumRules

open Sys2Proof Sys2Proof.Machine

/-! ### The checksum (R100, R101) -/

/-- An 8-bit accumulator wraps at 256, whatever it starts from (R101). -/
theorem foldl_add_toNat (bs : List Byte) (acc : Byte) :
    (bs.foldl (fun acc b => acc + b) acc).toNat = (acc.toNat + byteSum bs) % 256 := by
  induction bs generalizing acc with
  | nil => exact (Nat.mod_eq_of_lt acc.isLt).symm
  | cons b bs ih =>
    have hsum : byteSum (b :: bs) = b.toNat + byteSum bs := List.sum_cons
    rw [List.foldl_cons, ih, hsum, BitVec.toNat_add, Nat.mod_add_mod, Nat.add_assoc]

/-- The sum takes the bytes in any order (R101). -/
theorem byteSum_perm {bs cs : List Byte} (h : bs.Perm cs) : byteSum bs = byteSum cs :=
  (h.map BitVec.toNat).sum_eq

/-- Settles O39: the accumulator starts from 0, and the sum modulo 256 is a function of the sum. -/
theorem checksumIsSumMod256 : Obligations.ChecksumIsSumMod256 := by
  refine ⟨fun bs => rfl, fun bs => ?accumulator, fun bs cs h => ?order, rfl, rfl, rfl⟩
  case accumulator => simpa [checksum] using foldl_add_toNat bs 0
  case order => rw [checksum, checksum, byteSum_perm h]

/-! ### CSUM (R103) -/

/-- The two results of `CSUM`, the checksum and the unreduced sum. -/
def sumResults (bs : List Byte) : Results :=
  ⟨regOfNat (checksum bs), regOfNat (byteSum bs), 0, 0⟩

theorem exec_csum (off cnt : Nat) (s : State) :
    exec (.csum off cnt) s = accessor s (readThen s off cnt sumResults) := rfl

/-- The word of `CSUM` with its `REV` bit set is reserved (R61 (c)). -/
theorem reservedWord_csum_reversed {off cnt : Nat} (hoff : off < 128) (hcnt : cnt < 128) :
    reservedWord (BitVec.ofNat 32 (0x40000800 + off * 2 ^ 19 + cnt * 2 ^ 12)) := by
  generalize hw : BitVec.ofNat 32 (0x40000800 + off * 2 ^ 19 + cnt * 2 ^ 12) = w
  have hop : wordField w 26 6 = 0x10 := by rw [← hw, wordField_ofNat]; omega
  have hrev : wordField w 11 1 = 1 := by rw [← hw, wordField_ofNat]; omega
  exact (EncodingRules.reservedWord_iff hop).2 (.inr <| .inr <| .inr <| .inr <| .inr <| .inl ⟨rfl, hrev⟩)

/-- Settles O40: `CSUM` is a read of its range with no count check. -/
theorem csumSumsRange : Obligations.CsumSumsRange := by
  refine fun off cnt => ⟨fun hoff hcnt =>
    ⟨Scope.decode_encode_csum (AccessorRules.wellFormed_range hoff hcnt), reservedWord_csum_reversed hoff hcnt⟩,
    fun s => ⟨fun hv hb hr => ?value, fun hv => ?invalid, fun hv hend => ?range, fun k hv hb hm => ?marked⟩⟩
  case value =>
    rw [exec_csum, readThen_ok _ hb hr, accessor_ok hv]
    rfl
  case invalid => rw [exec_csum, accessor_invalid _ hv]
  case range =>
    rw [exec_csum, readThen_range _ hend]
    exact accessor_error hv
  case marked =>
    rw [exec_csum, readThen_marked _ hb hm]
    exact accessor_error hv

/-! ### EDC (R104) -/

/-- What `EDC` does in `s` over the bytes `first` to 68 (R104), `q` being its outcome: the embedded and the computed
checksum, else `NotConstructed`, or `DecodeError` at the lowest marked byte of the range and only then at byte 69. -/
def ShowsBothFrom (first : Nat) (s : State) (q : Host.Outcome State Fault Refusal) : Prop :=
  (s.valid = true → readable s first (69 - first) → readable s 69 1 →
    q = .next
      (okWith s (BitVec.ofNat 64 (byteAt s 69)) (BitVec.ofNat 64 (checksum (bytesAt s first (69 - first)))) 0 0)) ∧
  (s.valid = false → q = .next (faultWith s 2 0)) ∧
  (∀ k, s.valid = true → firstMarked s first (69 - first) k → q = .next (faultWith s 7 (first + k))) ∧
  (s.valid = true → readable s first (69 - first) → s.bad.getLsbD 69 = true → q = .next (faultWith s 7 69))

/-- The two results of `EDC` from byte 69 and the bytes of its range. -/
def edcResults (bs b69 : List Byte) : Results :=
  ⟨regOfNat (be b69), regOfNat (checksum bs), 0, 0⟩

/-- The count of the bytes `CK_FIRST` to `CK_LAST` (R102). -/
theorem ckRange_count (c : CkFirst) : 68 - c.offset + 1 = 69 - c.offset := by
  cases c <;> rfl

theorem ckRange_le (c : CkFirst) : c.offset + (69 - c.offset) ≤ 70 := by
  cases c <;> decide

/-- With a readable range `EDC` goes on to byte 69. -/
theorem edcAnswer_of_readable {p : Params} {s : State}
    (h : readable s p.ckFirst.offset (69 - p.ckFirst.offset)) :
    edcAnswer p s = readThen s 69 1 (edcResults (bytesAt s p.ckFirst.offset (69 - p.ckFirst.offset))) := by
  rw [edcAnswer, ckRange_count, memRead_ok (ckRange_le _) h]
  rfl

/-- A marked byte of the range ends `EDC` before byte 69 is read. -/
theorem edcAnswer_of_marked {p : Params} {s : State} {k : Nat}
    (h : firstMarked s p.ckFirst.offset (69 - p.ckFirst.offset) k) :
    edcAnswer p s = .error ⟨.decodeError, regOfNat (p.ckFirst.offset + k)⟩ := by
  rw [edcAnswer, ckRange_count, memRead_marked (ckRange_le _) h]

/-- A marked byte is the first of the range of itself alone. -/
theorem firstMarked_one {s : State} {a : Nat} (h : s.bad.getLsbD a = true) : firstMarked s a 1 0 :=
  ⟨Nat.one_pos, h, fun _ hj => absurd hj (Nat.not_lt_zero _)⟩

theorem edcWith_showsBothFrom (p : Params) (s : State) : ShowsBothFrom p.ckFirst.offset s (edcWith p s) := by
  refine ⟨fun hv hrange hlast => ?value, accessor_invalid _, fun k hv hm => ?range, fun hv hrange hm => ?last⟩
  case value =>
    have hbyte : be (bytesAt s 69 1) = byteAt s 69 := MemoryRules.orderValue_bytesAt_one .be s 69
    rw [edcWith, edcAnswer_of_readable hrange, readThen_ok _ (by decide) hlast, accessor_ok hv, edcResults, hbyte]
    rfl
  case range =>
    rw [edcWith, edcAnswer_of_marked hm]
    exact accessor_error hv
  case last =>
    rw [edcWith, edcAnswer_of_readable hrange, readThen_marked _ (by decide) (firstMarked_one hm)]
    exact accessor_error hv

/-- The offset as a choice between the two readings (R102). -/
theorem ckFirst_offset_eq (c : CkFirst) : c.offset = if c = .byte3 then 3 else 4 := by
  cases c <;> rfl

/-- Settles O41: the machine is the instance with `CK_FIRST = 4`. -/
theorem edcShowsBothChecksums : Obligations.EdcShowsBothChecksums := by
  refine ⟨rfl, fun s => ?_⟩
  obtain ⟨hvalue, hinvalid, hrange, hlast⟩ := edcWith_showsBothFrom Config.params s
  refine ⟨hvalue, hinvalid, hrange, hlast, fun p => ?_⟩
  have hinstance := edcWith_showsBothFrom p s
  rw [ckFirst_offset_eq] at hinstance
  exact hinstance

end Sys2Proof.Proofs.ChecksumRules
end

section
/-! SUPPORT. Proofs of the statements of 43_coordinate.md: the signed integer (R112), decimal degrees (R113 to R119), and
degrees, minutes, seconds with the hemisphere (R120 to R125). -/

namespace Sys2Proof.Proofs.CoordinateRules

open Sys2Proof Sys2Proof.Machine

/-! ### The signed integer (R112) -/

theorem coordInt_of_lt {raw : Nat} (h : raw < 0xF0000000) : coordInt raw = raw := by
  rw [MemoryRules.coordInt_eq (by omega), if_neg (by omega)]

theorem coordInt_of_le {raw : Nat} (hlt : raw < 2 ^ 32) (h : 0xF0000000 ≤ raw) :
    coordInt raw = (raw : Int) - 2 ^ 32 := by
  rw [MemoryRules.coordInt_eq hlt, if_pos h]

/-- Settles O42: both formulas are `raw - 2^32`, since a top nibble `F` sets bit 31. -/
theorem signTestOnTopNibble : Obligations.SignTestOnTopNibble := by
  refine fun raw hlt => ⟨coordInt_of_lt, fun hneg => ?_⟩
  have hbit : 2 ^ 32 ≤ 2 * (BitVec.ofNat 32 raw).toNat := by
    rw [BitVec.toNat_ofNat, Nat.mod_eq_of_lt hlt]
    omega
  rw [coordInt_of_le hlt hneg]
  constructor
  · omega
  · rw [BitVec.toInt_eq_toNat_cond, if_neg hbit.not_gt, BitVec.toNat_ofNat, Nat.mod_eq_of_lt hlt]
    rfl

/-! ### Decimal degrees (R113 to R119) -/

/-- Settles O43: `runsField_dd` at `DD_FRAC = 9`; on the latitude both arms of the exponent are 8. -/
theorem decimalDegreesResults : Obligations.DecimalDegreesResults := by
  refine ⟨⟨rfl, MemoryRules.runsField_dd Config.params .lon fun _ => rfl⟩, rfl, ?latitude⟩
  case latitude =>
    have hlat := MemoryRules.runsField_dd Config.params .lat (run := exec .latdd) fun _ => rfl
    simp only [MemoryRules.degreesResults, MemoryRules.positiveExp, ite_self] at hlat
    exact hlat

theorem rndDiv_zero (d : Nat) : rndDiv 0 d = 0 := by
  rw [rndDiv, Int.sign_zero, zero_mul]

/-- Ties go away from zero on both sides, so `rnd_div` is odd (R8). -/
theorem rndDiv_neg (n : Int) (d : Nat) : rndDiv (-n) d = -rndDiv n d := by
  rw [rndDiv, rndDiv, Int.sign_neg, Int.natAbs_neg, neg_mul]

theorem coordDD_zero (p : Params) (ax : Axis) : coordDD p ax 0 = 0 := by
  rw [coordDD, coordInt_of_lt (by decide), Nat.cast_zero, zero_mul, zero_mul, rndDiv_zero]

/-- The raw fields of a magnitude of R116 (b): `2^32 - m` has the top nibble `F` and is `-m`. -/
theorem coordInt_complement {m : Nat} (h1 : 1 ≤ m) (hm : m ≤ 2 ^ 28) : coordInt (2 ^ 32 - m) = -coordInt m := by
  rw [coordInt_of_le (by omega) (by omega), coordInt_of_lt (by omega)]
  omega

theorem coordExp_lon_complement {m : Nat} (h1 : 1 ≤ m) (hm : m ≤ 2 ^ 28) : coordExp .lon (2 ^ 32 - m) = 8 := by
  rw [MemoryRules.coordExp_eq .lon (by omega), if_pos (by omega)]

theorem coordExp_lon_of_lt {raw : Nat} (h : raw < 0xF0000000) : coordExp .lon raw = 9 := by
  rw [MemoryRules.coordExp_eq .lon (by omega), if_neg (by omega), MemoryRules.positiveExp]

/-- The latitude scales by `10^-8` on both sides of zero, and the rounding is odd (R116 (b)). -/
theorem coordDD_lat_complement (p : Params) {m : Nat} (h1 : 1 ≤ m) (hm : m ≤ 2 ^ 28) :
    coordDD p .lat (2 ^ 32 - m) = -coordDD p .lat m := by
  have hexp : coordExp .lat (2 ^ 32 - m) = coordExp .lat m := rfl
  rw [coordDD, coordDD, coordInt_complement h1 hm, hexp, neg_mul, neg_mul, rndDiv_neg]

/-- Settles O44: the two integers are opposite, and the two exponents of the longitude are 8 and 9. -/
theorem longitudeAsymmetry : Obligations.LongitudeAsymmetry := by
  refine fun p => ⟨coordDD_zero p, fun m h1 hm => ⟨?longitude, coordDD_lat_complement p h1 hm⟩⟩
  case longitude =>
    rw [coordInt_complement h1 hm, coordExp_lon_complement h1 hm, coordExp_lon_of_lt (by omega)]
    push_cast
    ring

/-! ### Degrees, minutes, hundredths of seconds (R120, R121) -/

/-- The four results for the magnitude `a` of the angle, as R121 writes them over the rationals. -/
def partsOf (a : ℚ) (hemi : Nat) : Results :=
  let mfull : ℚ := (a - ⌊a⌋) * 60
  let sfull : ℚ := (mfull - ⌊mfull⌋) * 60
  ⟨BitVec.ofInt 64 ⌊a⌋, BitVec.ofInt 64 ⌊mfull⌋, BitVec.ofInt 64 ⌊sfull * 100 + 1 / 2⌋, BitVec.ofNat 64 hemi⟩

/-- What the whole part leaves of a quotient is the remainder over the divisor. -/
theorem div_sub_floor (n d : Nat) : (n : ℚ) / d - ⌊(n : ℚ) / d⌋ = (n % d : Nat) / d := by
  rw [Int.self_sub_floor, Int.fract_div_natCast_eq_div_natCast_mod]

/-- A quotient's fraction in sixtieths: minutes from degrees, seconds from minutes (R121). -/
theorem sixtieths_eq (n d : Nat) : ((n : ℚ) / d - ⌊(n : ℚ) / d⌋) * 60 = (n % d * 60 : Nat) / d := by
  rw [div_sub_floor, div_mul_eq_mul_div, Nat.cast_mul, Nat.cast_ofNat]

theorem regOfNat_div (n d : Nat) : regOfNat (n / d) = BitVec.ofInt 64 ⌊(n : ℚ) / d⌋ := by
  rw [Rat.floor_natCast_div_natCast, regOfNat, ← Int.natCast_ediv, BitVec.ofInt_natCast]

/-- On a non-negative quotient `rnd_div` is the floor after adding a half (R8). -/
theorem rndDiv_eq_floor (n : Nat) {d : Nat} (hd : 0 < d) : rndDiv n d = ⌊(n : ℚ) / d + 1 / 2⌋ := by
  have hd' : (d : ℚ) ≠ 0 := by exact_mod_cast hd.ne'
  have hhalf : (n : ℚ) / d + 1 / 2 = ((2 * n + d : Nat) : ℚ) / (2 * d : Nat) := by
    push_cast
    field_simp
  rw [hhalf, Rat.floor_natCast_div_natCast, rndDiv, Int.natAbs_natCast]
  rcases n.eq_zero_or_pos with rfl | hn
  · have hlt : 2 * 0 + d < 2 * d := by omega
    rw [Nat.cast_zero, Int.sign_zero, zero_mul, ← Int.natCast_ediv, Nat.div_eq_of_lt hlt, Nat.cast_zero]
  · rw [Int.sign_natCast_of_ne_zero hn.ne', one_mul, Int.natCast_ediv]

/-- The model's parts of `n / d`, in whole-number arithmetic, are the parts of the rational. -/
theorem partsOf_div (n : Nat) {d : Nat} (hd : 0 < d) (hemi : Nat) :
    partsOf ((n : ℚ) / d) hemi =
      ⟨regOfNat (dmsDeg n d), regOfNat (dmsMin n d), regOfInt (dmsSec n d), regOfNat hemi⟩ := by
  have hcent (k : Nat) : ((k * 60 : Nat) : ℚ) / d * 100 = (k * 6000 : Nat) / d := by
    push_cast
    ring
  simp only [partsOf, sixtieths_eq, hcent]
  rw [dmsDeg, dmsMin, dmsSec, regOfNat_div, regOfNat_div, rndDiv_eq_floor _ hd]
  rfl

/-- The angle `d` of R120 in degrees. -/
def dmsValue (p : Params) (raw : Nat) : ℚ :=
  (if p.dmsInput = .unsignedRaw then (raw : ℚ) else (coordInt raw : ℚ)) * (p.kDeg.num / p.kDeg.den) / 10 ^ 8

theorem dmsDen_pos (p : Params) : 0 < dmsDen p :=
  Nat.mul_pos p.kDeg.den_pos (by decide)

theorem dmsValue_eq_div (p : Params) (raw : Nat) : dmsValue p raw = (dmsNum p raw : ℚ) / dmsDen p := by
  rw [dmsValue, mul_div_assoc', div_div, dmsDen, dmsNum]
  cases p.dmsInput with
  | unsignedRaw => push_cast; rfl
  | signedRaw => push_cast; rfl

/-! ### The hemisphere (R122) -/

/-- The letter's code of the angle `d`, as R122 writes its ranges over the rationals. -/
def letterOf (ax : Axis) (d : ℚ) : Nat :=
  if ax = .lon then (if 0 < d ∧ d ≤ 180 then 1 else if -180 ≤ d ∧ d < 0 then 2 else 0)
  else if 0 < d ∧ d ≤ 90 then 3 else if -90 ≤ d ∧ d < 0 then 4 else 0

/-- The range of the positive letter, `k` being its bound in degrees, is one of the numerator. -/
theorem positive_range_iff (n : Int) {d : Nat} (hd : 0 < d) (k : Nat) :
    (0 < (n : ℚ) / d ∧ (n : ℚ) / d ≤ k) ↔ (0 < n ∧ n ≤ k * d) := by
  have hd' : (0 : ℚ) < d := by exact_mod_cast hd
  rw [div_pos_iff_of_pos_right hd', div_le_iff₀ hd']
  norm_cast

/-- The range of the negative letter, likewise. -/
theorem negative_range_iff (n : Int) {d : Nat} (hd : 0 < d) (k : Nat) :
    (-(k : ℚ) ≤ (n : ℚ) / d ∧ (n : ℚ) / d < 0) ↔ (-(k * (d : Int)) ≤ n ∧ n < 0) := by
  have hd' : (0 : ℚ) < d := by exact_mod_cast hd
  rw [le_div_iff₀ hd', div_lt_iff₀ hd', zero_mul, neg_mul]
  norm_cast

theorem hemisphere_eq_letterOf (ax : Axis) (n : Int) {d : Nat} (hd : 0 < d) :
    hemisphere ax n d = letterOf ax ((n : ℚ) / d) := by
  have hpos := positive_range_iff n hd
  have hneg := negative_range_iff n hd
  cases ax with
  | lon =>
    have heast := hpos 180
    have hwest := hneg 180
    push_cast at heast hwest
    simp only [hemisphere, letterOf, heast, hwest, if_true]
  | lat =>
    have hnorth := hpos 90
    have hsouth := hneg 90
    push_cast at hnorth hsouth
    simp only [hemisphere, letterOf, hnorth, hsouth, reduceCtorEq, if_false]

/-- An angle that is not negative has no letter of the negative side. -/
theorem letterOf_of_nonneg (ax : Axis) {d : ℚ} (h : 0 ≤ d) :
    letterOf ax d = if ax = .lon then (if 0 < d ∧ d ≤ 180 then 1 else 0) else if 0 < d ∧ d ≤ 90 then 3 else 0 := by
  simp only [letterOf, h.not_gt, and_false, if_false]

/-! ### The results of LONDMS and LATDMS (R123 to R125) -/

theorem dmsResults_eq_partsOf (p : Params) (ax : Axis) (raw : Nat) :
    dmsResults p ax raw = partsOf |dmsValue p raw| (letterOf ax (dmsValue p raw)) := by
  have habs : |(dmsNum p raw : ℚ) / dmsDen p| = (dmsNum p raw).natAbs / dmsDen p := by
    rw [abs_div, Nat.abs_cast, Nat.cast_natAbs, Int.cast_abs]
  rw [dmsValue_eq_div, habs, partsOf_div _ (dmsDen_pos p), ← hemisphere_eq_letterOf _ _ (dmsDen_pos p), dmsResults]

/-- Settles O45: the parts of `|d|` and the letter of `d`. -/
theorem dmsDecomposition : Obligations.DmsDecomposition :=
  dmsResults_eq_partsOf

/-- With the unsigned reading the angle is not negative, so it is its own magnitude. -/
theorem dmsResults_unsigned {p : Params} (h : p.dmsInput = .unsignedRaw) (ax : Axis) (raw : Nat) :
    let d : ℚ := raw * (p.kDeg.num / p.kDeg.den) / 10 ^ 8
    dmsResults p ax raw =
      partsOf d (if ax = .lon then (if 0 < d ∧ d ≤ 180 then 1 else 0) else if 0 < d ∧ d ≤ 90 then 3 else 0) := by
  intro d
  have hd : dmsValue p raw = d := by rw [dmsValue, if_pos h]
  have hnonneg : 0 ≤ d := by positivity
  rw [dmsResults_eq_partsOf, hd, abs_of_nonneg hnonneg, letterOf_of_nonneg ax hnonneg]

/-- Settles O46: the machine's `DMS_INPUT` is the unsigned reading. -/
theorem dmsResults : Obligations.DmsResults := by
  have hlon := MemoryRules.runsField_dms Config.params .lon (run := exec .londms) fun _ => rfl
  have hlat := MemoryRules.runsField_dms Config.params .lat (run := exec .latdms) fun _ => rfl
  simp only [dmsResults_unsigned (p := Config.params) rfl] at hlon hlat
  exact ⟨⟨rfl, hlon⟩, rfl, hlat⟩

end Sys2Proof.Proofs.CoordinateRules
end

section
/-! SUPPORT. Proofs of the statements of 44_fields_header.md: the selectors of one field (R130 to R150, with the status
bytes of 45_fields_position_time.md R167 to R170), the analog inputs (R151 to R155), and the all-zero frame. -/

namespace Sys2Proof.Proofs.HeaderFieldRules

open Sys2Proof Sys2Proof.Machine

/-! ### String order over the frame (20_memory.md R34) -/

theorem be_bytesAt_succ (s : State) (a n : Nat) :
    be (bytesAt s a (n + 1)) = byteAt s a * 256 ^ n + be (bytesAt s (a + 1) n) := by
  have hlength : (bytesAt s (a + 1) n).length = n := by rw [bytesAt, List.length_map, List.length_range']
  rw [bytesAt, List.range'_succ, List.map_cons, MemoryRules.be_cons, ← bytesAt, hlength, byteAt]

theorem be_bytesAt_zero (s : State) (a : Nat) : be (bytesAt s a 0) = 0 := rfl

theorem be_bytesAt_two (s : State) (a : Nat) : be (bytesAt s a 2) = byteAt s a * 256 + byteAt s (a + 1) := by
  simp only [be_bytesAt_succ, be_bytesAt_zero]
  omega

theorem be_bytesAt_four (s : State) (a : Nat) :
    be (bytesAt s a 4) =
      byteAt s a * 2 ^ 24 + byteAt s (a + 1) * 2 ^ 16 + byteAt s (a + 2) * 2 ^ 8 + byteAt s (a + 3) := by
  simp only [be_bytesAt_succ, be_bytesAt_zero, Nat.add_assoc, Nat.reduceAdd]
  omega

/-! ### Selectors of one number (R130) -/

/-- A selector of one number that its field's number `v` determines as `g v`. -/
theorem readsNumber_of_fieldRead {i : Instr} {word fo fn : Nat} {value : State → Nat} (o : ByteOrder) (g : Nat → Nat)
    (hword : decode (BitVec.ofNat 32 word) = .ok i)
    (hexec : ∀ s, exec i s = fieldRead s fo fn o fun v => result0 (regOfNat (g v))) (hb : fo + fn ≤ 70)
    (hvalue : ∀ s, g (orderValue o (bytesAt s fo fn)) = value s) : readsNumber i word fo fn value := by
  refine ⟨hword, MemoryRules.runsField_of_fieldRead o _ hexec hb fun s => ?_⟩
  rw [hvalue]
  rfl

/-- A selector with nothing beyond the common rule. -/
theorem readsNumber_plain {i : Instr} {word fo fn : Nat} {value : State → Nat} (o : ByteOrder)
    (hword : decode (BitVec.ofNat 32 word) = .ok i) (hexec : ∀ s, exec i s = fieldPlain s fo fn o) (hb : fo + fn ≤ 70)
    (hvalue : ∀ s, orderValue o (bytesAt s fo fn) = value s) : readsNumber i word fo fn value :=
  readsNumber_of_fieldRead o id hword hexec hb hvalue

/-- A selector of one whole byte. -/
theorem readsNumber_byte {i : Instr} {word fo : Nat} (hword : decode (BitVec.ofNat 32 word) = .ok i)
    (hexec : ∀ s, exec i s = fieldPlain s fo 1 .be) (hb : fo + 1 ≤ 70) :
    readsNumber i word fo 1 fun s => byteAt s fo :=
  readsNumber_plain .be hword hexec hb fun s => MemoryRules.orderValue_bytesAt_one .be s fo

/-- Settles O47: three selectors of several bytes, and nine of one. -/
theorem headerSelectors : Obligations.HeaderSelectors := by
  refine ⟨readsNumber_plain .be rfl (fun _ => rfl) (by decide) fun s => be_bytesAt_four s 0, ?_,
    readsNumber_plain .le rfl (fun _ => rfl) (by decide) fun s => MemoryRules.le_bytesAt_four s 5,
    readsNumber_plain .be rfl (fun _ => rfl) (by decide) fun s => be_bytesAt_two s 9, ?_, ?_, ?_, ?_, ?_, ?_, ?_, ?_⟩
  all_goals exact readsNumber_byte rfl (fun _ => rfl) (by decide)

/-- Settles O49: nine selectors of one byte. -/
theorem statusSelectors : Obligations.StatusSelectors := by
  refine ⟨?_, ?_, ?_, ?_, ?_, ?_, ?_, ?_, ?_⟩
  all_goals exact readsNumber_byte rfl (fun _ => rfl) (by decide)

/-! ### The hardware version (R136 to R138) -/

/-- The model id is the low 5 bits (R137). -/
theorem bitSlice_modelId (b : Nat) : bitSlice b 4 0 = b % 32 := by
  rw [bitSlice]
  omega

/-- The modem code is all that lies above them in a byte (R138). -/
theorem bitSlice_modemCode {b : Nat} (h : b < 256) : bitSlice b 7 5 = b / 32 := by
  rw [bitSlice]
  omega

/-- The results of `FLD HWV` from the number of its byte, the byte and its two groups (R136). -/
def versionResults (b : Nat) : Results :=
  ⟨regOfNat b, regOfNat (bitSlice b 4 0), regOfNat (bitSlice b 7 5), 0⟩

/-- Settles O48: the groups of the byte are a remainder and a quotient by 32. -/
theorem hardwareSelectors : Obligations.HardwareSelectors := by
  have hbyte (s : State) : orderValue .be (bytesAt s 12 1) = byteAt s 12 := MemoryRules.orderValue_bytesAt_one .be s 12
  have hmodel (s : State) : bitSlice (orderValue .be (bytesAt s 12 1)) 4 0 = byteAt s 12 % 32 := by
    rw [hbyte, bitSlice_modelId]
  have hmodem (s : State) : bitSlice (orderValue .be (bytesAt s 12 1)) 7 5 = byteAt s 12 / 32 := by
    rw [hbyte, bitSlice_modemCode (MemoryRules.byteAt_lt s 12)]
  refine ⟨⟨rfl, MemoryRules.runsField_of_fieldRead .be versionResults (fun _ => rfl) (by decide) fun s => ?whole⟩,
    readsNumber_of_fieldRead .be (bitSlice · 4 0) rfl (fun _ => rfl) (by decide) hmodel,
    readsNumber_of_fieldRead .be (bitSlice · 7 5) rfl (fun _ => rfl) (by decide) hmodem⟩
  case whole =>
    rw [versionResults, hmodel, hmodem, hbyte, regOfNat, regOfNat, regOfNat]

/-! ### The analog inputs (R151 to R155) -/

/-- A configuration the spec does not refuse has one affine input (R155). -/
theorem oneAffineInput_of_legal {p : Params} (h : p.legal = true) :
    (p.analogs.filter fun an => decide (an.offset.num ≠ 0)).length = 1 := by
  rw [Params.legal, Bool.and_eq_true, decide_eq_true_eq] at h
  exact h.1

/-- Settles O50: each input is an analog read with its own parameters, and the machine's parameters are legal. -/
theorem analogSelectors : Obligations.AnalogSelectors :=
  ⟨⟨rfl, MemoryRules.runsField_analog Config.params.an1 (fun _ => rfl) (by decide)⟩,
    ⟨rfl, MemoryRules.runsField_analog Config.params.an2 (fun _ => rfl) (by decide)⟩,
    ⟨rfl, MemoryRules.runsField_analog Config.params.an3 (fun _ => rfl) (by decide)⟩,
    ⟨rfl, MemoryRules.runsField_analog Config.params.an4 (fun _ => rfl) (by decide)⟩,
    oneAffineInput_of_legal params_legal⟩

/-! ### The all-zero frame (R130, 41_accessor.md R96) -/

/-- A frame is committed, with no byte marked and every byte 0. -/
structure ZeroFrame (s : State) : Prop where
  valid : s.valid = true
  bad : s.bad = 0
  byte : ∀ a, a < 70 → byteAt s a = 0

theorem ZeroFrame.readable_range {s : State} (h : ZeroFrame s) (a n : Nat) : readable s a n :=
  fun _ _ => by rw [h.bad]; exact BitVec.getLsbD_zero

theorem ZeroFrame.bytesAt_eq_replicate {s : State} (h : ZeroFrame s) {a n : Nat} (hb : a + n ≤ 70) :
    bytesAt s a n = List.replicate n 0 := by
  refine List.eq_replicate_iff.2 ⟨by rw [bytesAt, List.length_map, List.length_range'], fun b hmem => ?_⟩
  obtain ⟨k, hk, rfl⟩ := List.mem_map.1 hmem
  obtain ⟨-, hlt⟩ := List.mem_range'_1.1 hk
  exact BitVec.eq_of_toNat_eq (h.byte k (by omega))

theorem le_replicate_zero (n : Nat) : le (List.replicate n 0) = 0 := by
  induction n with
  | zero => rfl
  | succ n ih => rw [List.replicate_succ, le, ih]; rfl

/-- Zero bytes are the number 0 in either order, since their reversal is themselves. -/
theorem orderValue_replicate_zero (o : ByteOrder) (n : Nat) : orderValue o (List.replicate n 0) = 0 := by
  cases o with
  | be => rw [orderValue, ← List.reverse_replicate, MemoryRules.be_reverse, le_replicate_zero]
  | le => rw [orderValue, le_replicate_zero]

theorem ZeroFrame.orderValue_eq_zero {s : State} (h : ZeroFrame s) (o : ByteOrder) {a n : Nat} (hb : a + n ≤ 70) :
    orderValue o (bytesAt s a n) = 0 := by
  rw [h.bytesAt_eq_replicate hb, orderValue_replicate_zero]

theorem bitfield_zero (w : Nat) (dir : BitDir) (pos wid : Nat) : bitfield 0 w dir pos wid = 0 := by
  rw [bitfield, Nat.zero_div, Nat.zero_mod]

/-- An entry that a `FIELD_MAP` may hold reads 0, since it passes all checks of `BFX` (41_accessor.md R93, R96). -/
theorem ZeroFrame.exec_flagInstr {s : State} (h : ZeroFrame s) {e : FieldMapEntry} (he : e.legal = true) :
    exec (flagInstr e) s = .next (okWith s 0 (BitVec.ofNat 64 e.wid) 0 0) := by
  rw [FieldMapEntry.legal, decide_eq_true_eq] at he
  obtain ⟨h1, h8, hb, hwid, -, hgroup⟩ := he
  rw [flagInstr, AccessorRules.exec_bfx_eq_fieldRead e.rev e.dir h1 h8 hwid hgroup,
    fieldRead_ok e.rev _ hb h.valid (h.readable_range _ _), h.orderValue_eq_zero e.rev hb,
    AccessorRules.groupResults, bitfield_zero]
  rfl

/-- The `FLD` selectors are those of the layout's fields and those of the five bit groups the source names (20_memory.md
R35, 41_accessor.md R95). -/
theorem selector_of_opcode {i : Instr} (h : opcode i = 0x20) :
    (∃ f ∈ layout, f.selector = i) ∨ ∃ g ∈ namedGroups, g.1 = i := by
  cases i with
  | clr | push | commit | stat | getb | getr | bfx | invb | csum | edc | londd | latdd | londms | latdms => cases h
  | fldHwmodel | fldHwmodem | fldLgfd | fldLgfh | fldLgfm => exact .inr (by decide)
  | _ => exact .inl (by decide)

/-- The `BFX` form of each named bit group is one that a `FIELD_MAP` may hold. -/
theorem namedGroups_legal : ∀ g ∈ namedGroups, ∃ e : FieldMapEntry, e.legal = true ∧ g.2 = flagInstr e := by
  simp only [namedGroups, List.forall_mem_cons]
  exact ⟨⟨⟨"HWMODEL", 12, 1, .be, .lsb, 0, 5⟩, by decide, rfl⟩, ⟨⟨"HWMODEM", 12, 1, .be, .msb, 0, 3⟩, by decide, rfl⟩,
    ⟨⟨"LGFD", 38, 2, .le, .msb, 0, 5⟩, by decide, rfl⟩, ⟨⟨"LGFH", 38, 2, .le, .msb, 5, 5⟩, by decide, rfl⟩,
    ⟨⟨"LGFM", 38, 2, .le, .msb, 10, 6⟩, by decide, rfl⟩, List.forall_mem_nil _⟩

/-- The selector of a whole field reads 0. -/
theorem ZeroFrame.exec_layout {s : State} (h : ZeroFrame s) {f : Field} (hf : f ∈ layout) :
    ∃ t : State, exec f.selector s = .next t ∧ t.err = 0 ∧ t.r.r0 = 0 := by
  obtain ⟨-, -, hreads⟩ := MemoryRules.layoutCoversFrame
  have hbound : ∀ f ∈ layout, f.off + f.bytes ≤ 70 := by decide
  obtain ⟨t, hexec, herr, hr0⟩ := hreads f hf s h.valid (h.readable_range _ _)
  rw [← MemoryRules.orderValue_eq_ite, h.orderValue_eq_zero f.order (hbound f hf)] at hr0
  exact ⟨t, hexec, herr, hr0⟩

/-- The selector of a named bit group reads 0, as its `BFX` form does. -/
theorem ZeroFrame.exec_namedGroup {s : State} (h : ZeroFrame s) {g : Instr × Instr} (hg : g ∈ namedGroups) :
    ∃ t : State, exec g.1 s = .next t ∧ t.err = 0 ∧ t.r.r0 = 0 := by
  obtain ⟨e, hlegal, hform⟩ := namedGroups_legal g hg
  obtain ⟨t, u, hexec, hbfx, herr, hr0⟩ := AccessorRules.namedGroupsAreBfxForms g hg s
  rw [hform, h.exec_flagInstr hlegal] at hbfx
  cases hbfx
  exact ⟨t, hexec, herr, hr0⟩

/-- Settles O55: a selector is of a whole field, or of a named bit group and reads what its `BFX` form does. -/
theorem zeroFrameReadsZero : Obligations.ZeroFrameReadsZero := by
  intro s hv hbad hbyte
  have hzero : ZeroFrame s := ⟨hv, hbad, hbyte⟩
  refine ⟨fun i hi => ?_, fun e => hzero.exec_flagInstr⟩
  rcases selector_of_opcode hi with ⟨f, hf, rfl⟩ | ⟨g, hg, rfl⟩
  · exact hzero.exec_layout hf
  · exact hzero.exec_namedGroup hg

end Sys2Proof.Proofs.HeaderFieldRules
end

section
/-! SUPPORT. Proofs of the statements of 45_fields_position_time.md: the selectors of one number (R161, R162, R171, R172,
R176 to R182), the last GPS fix and its parts (R163 to R166), and the scaled positional fields (R173 to R175, R183). -/

namespace Sys2Proof.Proofs.PositionTimeRules

open Sys2Proof Sys2Proof.Machine

/-! ### Counters, raw coordinates, time stamp and checksum byte (R161, R162, R171, R172, R176 to R182) -/

theorem le_bytesAt_three (s : State) (a : Nat) :
    le (bytesAt s a 3) = byteAt s a + byteAt s (a + 1) * 2 ^ 8 + byteAt s (a + 2) * 2 ^ 16 := by
  simp only [MemoryRules.le_bytesAt_succ, MemoryRules.le_bytesAt_zero, Nat.add_assoc, Nat.reduceAdd]
  omega

/-- Six bytes are the number of the first four, and two more above it. -/
theorem le_bytesAt_six (s : State) (a : Nat) :
    le (bytesAt s a 6) = number4 s a + byteAt s (a + 4) * 2 ^ 32 + byteAt s (a + 5) * 2 ^ 40 := by
  simp only [MemoryRules.le_bytesAt_succ, MemoryRules.le_bytesAt_zero, number4, Nat.add_assoc, Nat.reduceAdd]
  omega

/-- Settles O51: five selectors of several bytes in reversed order, and six of one byte. -/
theorem positionSelectors : Obligations.PositionSelectors := by
  refine ⟨HeaderFieldRules.readsNumber_plain .le rfl (fun _ => rfl) (by decide) fun s => le_bytesAt_three s 29,
    HeaderFieldRules.readsNumber_plain .le rfl (fun _ => rfl) (by decide) fun s => le_bytesAt_six s 32,
    HeaderFieldRules.readsNumber_plain .le rfl (fun _ => rfl) (by decide) fun s => MemoryRules.le_bytesAt_four s 44,
    HeaderFieldRules.readsNumber_plain .le rfl (fun _ => rfl) (by decide) fun s => MemoryRules.le_bytesAt_four s 48,
    ?_, ?_, ?_, ?_, ?_,
    HeaderFieldRules.readsNumber_plain .le rfl (fun _ => rfl) (by decide) fun s => MemoryRules.le_bytesAt_two s 67, ?_⟩
  all_goals exact HeaderFieldRules.readsNumber_byte rfl (fun _ => rfl) (by decide)

/-! ### The last GPS fix (R163 to R166) -/

/-- The bits of a number from `lo` to its top are a quotient: nothing lies above them. -/
theorem bitSlice_top {v hi lo : Nat} (h : v < 2 ^ (hi + 1)) (hlo : lo ≤ hi + 1) : bitSlice v hi lo = v / 2 ^ lo := by
  have hquotient : v / 2 ^ lo < 2 ^ (hi + 1 - lo) := by
    rwa [Nat.div_lt_iff_lt_mul (Nat.two_pow_pos lo), ← pow_add, Nat.sub_add_cancel hlo]
  rw [bitSlice, Nat.mod_eq_of_lt hquotient]

/-- The lowest bits of a number are a remainder. -/
theorem bitSlice_bottom (v hi : Nat) : bitSlice v hi 0 = v % 2 ^ (hi + 1) := by
  rw [bitSlice, pow_zero, Nat.div_one, Nat.sub_zero]

/-- The number of the field's two bytes, byte 39 in bits 15:8 and byte 38 in bits 7:0 (R163). -/
def fixNumber (s : State) : Nat :=
  byteAt s 38 + byteAt s 39 * 256

theorem orderValue_fix (s : State) : orderValue .le (bytesAt s 38 2) = fixNumber s :=
  MemoryRules.le_bytesAt_two s 38

theorem fixNumber_lt (s : State) : fixNumber s < 2 ^ 16 := by
  have hlow := MemoryRules.byteAt_lt s 38
  have hhigh := MemoryRules.byteAt_lt s 39
  rw [fixNumber]
  omega

theorem fix_day (s : State) : bitSlice (orderValue .le (bytesAt s 38 2)) 15 11 = fixNumber s / 2 ^ 11 := by
  rw [orderValue_fix, bitSlice_top (fixNumber_lt s) (by decide)]

theorem fix_hour (s : State) : bitSlice (orderValue .le (bytesAt s 38 2)) 10 6 = fixNumber s / 2 ^ 6 % 2 ^ 5 := by
  rw [orderValue_fix, bitSlice]

theorem fix_minute (s : State) : bitSlice (orderValue .le (bytesAt s 38 2)) 5 0 = fixNumber s % 2 ^ 6 := by
  rw [orderValue_fix, bitSlice_bottom]

/-- The results of `FLD LGF` from the number of its two bytes: the number, day, hour and minute (R163). -/
def fixResults (v : Nat) : Results :=
  ⟨regOfNat v, regOfNat (bitSlice v 15 11), regOfNat (bitSlice v 10 6), regOfNat (bitSlice v 5 0)⟩

/-- Settles O52: of a 16-bit number the day is a quotient, the minute a remainder, and the hour lies between them. -/
theorem lastGpsFixSelectors : Obligations.LastGpsFixSelectors := by
  refine ⟨⟨rfl, MemoryRules.runsField_of_fieldRead .le fixResults (fun _ => rfl) (by decide) fun s => ?whole⟩,
    HeaderFieldRules.readsNumber_of_fieldRead .le (bitSlice · 15 11) rfl (fun _ => rfl) (by decide) fix_day,
    HeaderFieldRules.readsNumber_of_fieldRead .le (bitSlice · 10 6) rfl (fun _ => rfl) (by decide) fix_hour,
    HeaderFieldRules.readsNumber_of_fieldRead .le (bitSlice · 5 0) rfl (fun _ => rfl) (by decide) fix_minute⟩
  case whole =>
    rw [fixResults, fix_day, fix_hour, fix_minute, orderValue_fix]
    rfl

/-! ### The scaled positional fields (R173 to R175, R183) -/

/-- Settles O53: each field is a scaled read with the machine's own parameters, and its bytes are one number. -/
theorem scaledSelectors : Obligations.ScaledSelectors :=
  ⟨⟨rfl, MemoryRules.runsField_scaled Config.params.altScale Config.params.altFrac _ (fun _ => rfl) (by decide)
      fun s => MemoryRules.le_bytesAt_four s 52⟩,
    ⟨rfl, MemoryRules.runsField_scaled Config.params.spdScale 3 _ (fun _ => rfl) (by decide)
      fun s => MemoryRules.le_bytesAt_four s 56⟩,
    ⟨rfl, MemoryRules.runsField_scaled Config.params.dirScale Config.params.dirFrac _ (fun _ => rfl) (by decide)
      fun s => MemoryRules.le_bytesAt_two s 60⟩⟩

end Sys2Proof.Proofs.PositionTimeRules
end

section
/-! SUPPORT. Proofs of the statements of 60_exceptions.md: reserved words (R202), precise faults (R201, R212), accessors
without a frame (R203), and `LOADHEX` of a wrong length (R204). -/

namespace Sys2Proof.Proofs.ExceptionRules

open Sys2Proof Sys2Proof.Machine

/-! ### Reserved words (R202) -/

/-- A step with a word the decoder rejects takes the word and runs no command: no other state is looked at. -/
theorem step_command_rejected {s : State} {w : CmdWord} {rest : List PortEvent}
    (hbox : s.inbox = .command w :: rest) (hrej : EncodingRules.Rejects (decode w)) :
    step s = .next (illegal w (accept s rest)) := by
  obtain ⟨e, hdec⟩ := hrej
  simp only [step, portStep, hbox, hdec]

/-- Settles O9: the decoder rejects every reserved word (R61), and the raise is `IllegalCommand`, number 1. -/
theorem reservedWordFaults : Obligations.ReservedWordFaults := by
  intro s w rest hbox hres
  rw [step_command_rejected hbox ((EncodingRules.decode_rejects_iff w).2 hres)]
  exact congrArg Host.Outcome.next (raise_eq_faultWith (accept s rest) .illegalCommand w.toNat)

/-! ### Faults are precise (R201, R212) -/

/-- `faultWith` of the `ERR` and `R[0]` that a raise leaves is the raise. -/
theorem faultWith_of_raise (s : State) (e : Raised) :
    faultWith s (raise s e).err.toNat (raise s e).r.r0.toNat = raise s e := by
  obtain ⟨st, info⟩ := e
  rw [raise_err, raise_r, errCode_toNat, ← raise_eq_faultWith, BitVec.ofNat_toNat, BitVec.setWidth_eq]

/-- A command that leaves `ERR` nonzero has raised a status: every other end of a command is `finish`. -/
theorem raise_of_err_ne_zero {i : Instr} {s t : State} (h : exec i s = .next t) (herr : t.err ≠ 0) :
    ∃ e : Raised, e.status ≠ .ok ∧ t = raise s e := by
  rcases exec_next_all h with ⟨-, rfl⟩ | hraise | ⟨-, rs, rfl⟩ | ⟨ch, -, -, -, rfl⟩ | ⟨ch, -, -, -, rfl⟩ |
    ⟨-, -, -, rfl⟩
  case inr.inl => exact hraise
  all_goals exact absurd rfl herr

/-- Settles O14: the next state is that of a raise, whose code is the number of a status other than `OK`. -/
theorem faultsArePrecise : Obligations.FaultsArePrecise := by
  intro i s t h herr
  obtain ⟨e, he, rfl⟩ := raise_of_err_ne_zero h herr
  refine ⟨?_, ?_, (faultWith_of_raise s e).symm⟩
  · rw [raise_err, errCode_toNat]
    exact StateRules.statusNumber_pos he
  · rw [raise_err, errCode_toNat]
    exact statusNumber_le _

/-! ### Accessors without a frame (R203) -/

/-- Settles O16: an accessor command looks at `VALID` before anything else (`accessor_invalid`). -/
theorem accessorsNeedAFrame : Obligations.AccessorsNeedAFrame := by
  intro i s ha hv
  obtain ⟨q, hq, -⟩ := exec_accessor_form ha
  rw [hq]
  exact accessor_invalid _ hv

/-! ### `LOADHEX` of a wrong length (R204) -/

/-- `PUSH` into an open frame counts one character, up to 141 (40_frame_control.md R72). -/
theorem exec_push_counts (ch : Byte) {s : State} (hv : s.valid = false) :
    ∃ t, exec (.push ch) s = .next t ∧ t.valid = false ∧ t.cnt.toNat = min (s.cnt.toNat + 1) 141 := by
  rcases le_or_gt 140 s.cnt.toNat with hfull | hroom
  · refine ⟨_, FrameControlRules.exec_push_dropped ch hv hfull, hv, ?_⟩
    rw [okWith_cnt, min_eq_right (by omega)]
    rfl
  · refine ⟨_, FrameControlRules.exec_push_loads ch hv hroom, (loadChar_valid ch s).trans hv, ?_⟩
    rw [okWith_cnt, StateRules.loadChar_cnt_toNat ch hroom, min_eq_left (by omega)]

/-- A run of `PUSH` counts its characters, up to 141, by induction on them. -/
theorem execAll_push_counts (chars : List Byte) {s : State} (hv : s.valid = false) (hle : s.cnt.toNat ≤ 141) :
    ∃ t, execAll (chars.map Instr.push) s = .next t ∧ t.valid = false ∧
      t.cnt.toNat = min (s.cnt.toNat + chars.length) 141 := by
  induction chars generalizing s with
  | nil => exact ⟨s, rfl, hv, (min_eq_left hle).symm⟩
  | cons c chars ih =>
    obtain ⟨u, hpush, huv, hucnt⟩ := exec_push_counts c hv
    obtain ⟨t, hrun, htv, htcnt⟩ := ih huv (by omega)
    refine ⟨t, (EncodingRules.execAll_cons _ hpush).trans hrun, htv, ?_⟩
    rw [htcnt, hucnt, List.length_cons]
    omega

/-- `COMMIT` of an open frame with a count other than 140 raises a construction error with the count in `R[0]`: for
`ConstructionEmpty` the information 0 is the count. -/
theorem exec_commit_rejects {s : State} (hv : s.valid = false) (hcnt : s.cnt.toNat ≠ 140) :
    exec .commit s = .next (faultWith s (if s.cnt.toNat = 0 then 3 else 4) s.cnt.toNat) := by
  split
  · next hempty =>
    rw [hempty]
    exact FrameControlRules.exec_commit_empty hv hempty
  · next hempty => exact FrameControlRules.exec_commit_length hv hempty hcnt

/-- `LOADHEX` is `COMMIT` in an open frame that has counted the characters, up to 141 (30_encoding.md R63). -/
theorem execAll_loadHex_counts (chars : List Byte) (s : State) :
    ∃ t, t.valid = false ∧ t.cnt.toNat = min chars.length 141 ∧
      execAll (loadHex chars) s = execAll [.commit] t := by
  obtain ⟨s₀, hclr, hcleared⟩ := EncodingRules.exec_clr_loaded s
  have hzero : s₀.cnt.toNat = 0 := hcleared.cnt
  obtain ⟨t, hpush, hv, hcnt⟩ := execAll_push_counts chars hcleared.valid (by omega)
  refine ⟨t, hv, by rw [hcnt, hzero, Nat.zero_add], ?_⟩
  rw [loadHex, List.cons_append, EncodingRules.execAll_cons _ hclr, EncodingRules.execAll_append _ hpush]

/-- Settles O28: the count is 140 only for 140 characters, and 0 only for none. -/
theorem loadHexRejectsWrongLength : Obligations.LoadHexRejectsWrongLength := by
  intro chars s hlen
  obtain ⟨t, hv, hcnt, hrun⟩ := execAll_loadHex_counts chars s
  have hcommit := exec_commit_rejects hv (by omega)
  have hempty : t.cnt.toNat = 0 ↔ chars.length = 0 := by omega
  refine ⟨_, hrun.trans (EncodingRules.execAll_cons [] hcommit), hv, hcnt, ?_, ?_⟩
  · rw [faultWith_r, hcnt]
  · rw [faultWith_err]
    simp only [hempty]
    split <;> rfl

end Sys2Proof.Proofs.ExceptionRules
end


section
/-! SUPPORT. Proofs of the statements about steps as such: `rst` (70_reset_and_hazards.md R230), a port with nothing
presented (60_exceptions.md R210), and that every command is total (93_implementation_defined.md section 2). -/

namespace Sys2Proof.Proofs.ResetRules

open Sys2Proof Sys2Proof.Machine

/-! ### Steps without a finished command (R210, R230) -/

/-- With nothing presented the TFD idles. -/
theorem step_idle {s : State} (hbox : s.inbox = []) : step s = .next (idle s) := by
  simp only [step, portStep, hbox]

/-- `rst` between two commands. -/
theorem step_reset {s : State} {rest : List PortEvent} (hbox : s.inbox = .reset :: rest) :
    step s = .next (applyReset rest) := by
  simp only [step, portStep, hbox]

/-- `rst` during a command: the word is dropped undecoded. -/
theorem step_resetDuring {s : State} {w : CmdWord} {rest : List PortEvent}
    (hbox : s.inbox = .resetDuring w :: rest) : step s = .next (applyReset rest) := by
  simp only [step, portStep, hbox]

/-- Settles O6: one kind of event each; `applyReset` and `idle` are the states named. -/
theorem stepsWithoutCommand : Obligations.StepsWithoutCommand :=
  fun _ _ _ => ⟨step_reset, step_resetDuring, step_idle⟩

/-! ### Every command is total (93_implementation_defined.md section 2) -/

/-- `PUSH` is total: a committed frame, a full count, or room for the character (R72). -/
theorem exec_push_total (ch : Byte) (s : State) : ∃ t, exec (.push ch) s = .next t := by
  cases hv : s.valid with
  | true => exact ⟨_, FrameControlRules.exec_push_locked ch hv⟩
  | false =>
    obtain ⟨t, hpush, -⟩ := ExceptionRules.exec_push_counts ch hv
    exact ⟨t, hpush⟩

/-- `COMMIT` is total: a committed frame, a full count, or a construction error (R73). -/
theorem exec_commit_total (s : State) : ∃ t, exec .commit s = .next t := by
  cases hv : s.valid with
  | true => exact ⟨_, FrameControlRules.exec_commit_locked hv⟩
  | false =>
    by_cases hfull : s.cnt.toNat = 140
    · exact ⟨_, FrameControlRules.exec_commit_full hv hfull⟩
    · exact ⟨_, ExceptionRules.exec_commit_rejects hv hfull⟩

/-- An accessor command is total: `accessor` is, whatever its answer. -/
theorem exec_accessor_total {i : Instr} (ha : isAccessor i = true) (s : State) : ∃ t, exec i s = .next t := by
  obtain ⟨q, hq, -⟩ := exec_accessor_form ha
  rw [hq]
  exact accessor_total s _

theorem exec_total (i : Instr) (s : State) : ∃ t, exec i s = .next t := by
  cases i with
  | clr => exact ⟨_, rfl⟩
  | push ch => exact exec_push_total ch s
  | commit => exact exec_commit_total s
  | stat => exact ⟨_, FrameControlRules.exec_stat s⟩
  | _ => exact exec_accessor_total rfl s

/-- A step with a command word is total: the decoder gives a command or rejects the word. -/
theorem step_command_total {s : State} {w : CmdWord} {rest : List PortEvent} (hbox : s.inbox = .command w :: rest) :
    ∃ t, step s = .next t := by
  cases hdec : decode w with
  | ok i =>
    rw [Scope.step_command_ok hbox hdec]
    exact exec_total i (accept s rest)
  | error e => exact ⟨_, ExceptionRules.step_command_rejected hbox ⟨e, hdec⟩⟩

/-- Settles O10, by the event at the head of the port: only a command word runs anything, and every command is total. -/
theorem stepNeverStops : Obligations.StepNeverStops := by
  intro s
  match hbox : s.inbox with
  | [] => exact ⟨_, step_idle hbox⟩
  | .command w :: rest => exact step_command_total hbox
  | .reset :: rest => exact ⟨_, step_reset hbox⟩
  | .resetDuring w :: rest => exact ⟨_, step_resetDuring hbox⟩

end Sys2Proof.Proofs.ResetRules
end
